-- ==== Sys2Proof/Word.lean ====
section
/-! DEFINITION. The two machine words of the ECC CORE: a 32-bit command or window word (R80, R53) and a
byte of the buffer (R50). Values of registers and configuration slots are plain naturals (R8), not words. -/

namespace Sys2Proof

/-- A command word, and any 32-bit value the host reads or writes in the register window (R53, R80). -/
abbrev Word := BitVec 32

/-- One byte of BUF (R30, R50). -/
abbrev Byte := BitVec 8

end Sys2Proof
end

