-- ==== Sys2Proof/Config.lean ====
section
/-! DEFINITION. What is fixed when a core is built (R6), and the free values: what the spec leaves open,
as constants without a body, so that no proof can see their values. -/

namespace Sys2Proof

/-- The limb width W of one instance: `OPEN`, 32 or 64 (R6). -/
inductive LimbWidth where
  | w32
  | w64
deriving DecidableEq, Repr

/-- W as a number of bits (R6). -/
def LimbWidth.bits : LimbWidth → Nat
  | .w32 => 32
  | .w64 => 64

/-- The instance parameters that R6 leaves `OPEN` and that hold one value for the life of a core: the limb
width, and where the register window lies. They are data carried by the state, which no step changes, so
that every statement about all states is about every instance (log entry 1). -/
structure Params where
  /-- W (R6). -/
  limb : LimbWidth
  /-- BASE divided by 4: the window's registers lie at naturally aligned addresses (R52, R53), so BASE is
  a multiple of 4 (DEDUCED, log entry 2). -/
  baseWord : Nat
deriving DecidableEq, Repr

/-- BASE, the byte address of the register window (R6, R53). -/
def Params.base (p : Params) : Nat := 4 * p.baseWord

namespace Config

/-- LMAX, the largest supported bit length (R6). -/
def lMax : Nat := 576

/-- LMAXB = ceil(LMAX / 8) (R6). -/
def lMaxB : Nat := 72

/-- BUF_SIZE (R6, R50). -/
def bufSize : Nat := 256

/-- The size in bytes of the host register window (R51). -/
def windowSize : Nat := 0x200

/-- What the latency of a command may depend on (R340): the word, the public configuration (FLAGS taken
out of it for every command but CFGW and CFGLOCK), the public data byte string the command looks at (the tag
of PDEC, the value that CFGW stores), and the code of the error it ends in, if any. -/
structure LatencyKey where
  word   : Word
  slots  : List Nat
  data   : Nat
  error  : Nat
deriving DecidableEq, Repr

/-- `lat`, `OPEN` and finite (R6, R340, R341): how many units of time pass while BUSY = 1 before the command
completes. -/
opaque lat : LatencyKey → Nat

/-- The natural numbers that an `any value` result is drawn from, one for each draw of the state's counter: FINV, SINV, FSQRT,
SSQRT and the square-root step of PDEC (R117, R119, R243; D10, U3), and PTOAFF's inverse of a nonzero Z that has none (R205,
R117). The caller reduces it to the range that R33 gives. -/
opaque freeNat : Nat → Nat

/-- The drawn validity of such a result (U3). -/
opaque freeValidity : Nat → Bool

/-- The 32-bit word that a host read of BUF returns while BUSY = 1 (R62, U9): one for each draw. -/
opaque freeWord : Nat → Word

end Config

end Sys2Proof
end

