-- ==== Sys2Proof/Syntax.lean ====
section
/-! DEFINITION. The command set: one constructor for each of the 64 rows of the opcode map (R84). Register
fields are `Fin` types of the width R82 gives them, selectors are named constructors (R83, R89), and OFF and
LEN are naturals that `Instr.wf` bounds to 8 bits (R81). Operands stand in the assembler's order (R89). -/

namespace Sys2Proof

/-- An F or S register index: all 4 bits of the field (R82). -/
abbrev EReg := Fin 16

/-- A Q or A register index: bits 2:0 of the field, whose bit 3 must be 0 (R82). -/
abbrev PReg := Fin 8

/-- A choice-bit index (R82). -/
abbrev KReg := Fin 4

/-- The constants FLDC loads, in the order of FN 0 to 3 (R89, R126). -/
inductive FConst where
  | zero
  | one
  | a
  | b
deriving DecidableEq, Repr

/-- The constants SLDC loads: FN 0 and 1 (R89, R126). -/
inductive SConst where
  | zero
  | one
deriving DecidableEq, Repr

/-- The coordinate AGET reads: FN 0 and 1 (R89, R177). -/
inductive Coord where
  | x
  | y
deriving DecidableEq, Repr

/-- The SEC1 form PENC writes: FORM 0, 1 and 2; FORM 3 is illegal (R81, R240). -/
inductive Form where
  | compressed
  | uncompressed
  | compact
deriving DecidableEq, Repr

/-- The twelve configuration slots, in the order of their numbers 0 to 11 (R27). -/
inductive Slot where
  | L
  | FLAGS
  | P
  | N
  | A
  | B
  | GX
  | GY
  | R2P
  | R2N
  | PINV
  | NINV
deriving DecidableEq, Repr

/-- One command (R84). -/
inductive Instr where
  -- element commands (40_field_scalar.md)
  | nop
  | fadd (rd ra rb : EReg)
  | sadd (rd ra rb : EReg)
  | fsub (rd ra rb : EReg)
  | ssub (rd ra rb : EReg)
  | fneg (rd ra : EReg)
  | sneg (rd ra : EReg)
  | fmul (rd ra rb : EReg)
  | smul (rd ra rb : EReg)
  | fsqr (rd ra : EReg)
  | ssqr (rd ra : EReg)
  | finv (rd : EReg) (kd : KReg) (ra : EReg)
  | sinv (rd : EReg) (kd : KReg) (ra : EReg)
  | fsqrt (rd : EReg) (kd : KReg) (ra : EReg)
  | ssqrt (rd : EReg) (kd : KReg) (ra : EReg)
  | fnorm (rd ra : EReg)
  | snorm (rd ra : EReg)
  | fsel (rd ra rb : EReg) (ks : KReg)
  | ssel (rd ra rb : EReg) (ks : KReg)
  | fisz (kd : KReg) (ra : EReg)
  | sisz (kd : KReg) (ra : EReg)
  | fisodd (kd : KReg) (ra : EReg)
  | sisodd (kd : KReg) (ra : EReg)
  | feq (kd : KReg) (ra rb : EReg)
  | seq (kd : KReg) (ra rb : EReg)
  | sishigh (kd : KReg) (ra : EReg)
  | fldc (rd : EReg) (c : FConst)
  | sldc (rd : EReg) (c : SConst)
  | fdec (rg : EReg) (kd : KReg) (off len : Nat)
  | sdec (rg : EReg) (kd : KReg) (off len : Nat)
  | fenc (rg : EReg) (off len : Nat)
  | senc (rg : EReg) (off len : Nat)
  | sred (rg : EReg) (off len : Nat)
  | srednz (rg : EReg) (off len : Nat)
  -- projective commands (42_projective.md)
  | padd (rd ra rb : PReg)
  | paddm (rd ra : PReg) (rb : PReg)
  | pdbl (rd ra : PReg)
  | pneg (rd ra : PReg)
  | pmul (rd ra : PReg) (rb : EReg)
  | ptoaff (rd ra : PReg)
  | pfroma (rd ra : PReg)
  | psel (rd ra rb : PReg) (ks : KReg)
  | pisid (kd : KReg) (ra : PReg)
  | peq (kd : KReg) (ra rb : PReg)
  | pldi (rd : PReg)
  -- affine commands (41_affine.md)
  | aldi (rd : PReg)
  | aldg (rd : PReg)
  | aneg (rd ra : PReg)
  | aonc (kd : KReg) (ra : PReg)
  | aisid (kd : KReg) (ra : PReg)
  | asel (rd ra rb : PReg) (ks : KReg)
  | aget (rd : EReg) (ra : PReg) (c : Coord)
  | aset (rd : PReg) (kd : KReg) (ra rb : EReg)
  -- SEC1 codec (43_codec.md)
  | penc (rg : PReg) (kd : KReg) (off : Nat) (form : Form)
  | pdec (rg : PReg) (kd : KReg) (off len : Nat)
  -- configuration and choice bits (44_control.md)
  | cfgw (slot : Slot) (off len : Nat)
  | cfglock
  | kmov (kd ka : KReg)
  | knot (kd ka : KReg)
  | kand (kd ka kb : KReg)
  | kor (kd ka kb : KReg)
  | kxor (kd ka kb : KReg)
  | kclr (kd : KReg)
  | kset (kd : KReg)
deriving DecidableEq, Repr

end Sys2Proof
end

