-- ==== Sys2Proof/WellFormed.lean ====
section
/-! DEFINITION. Which instructions have an encoding: OFF and LEN are unsigned 8-bit fields (R81, R83). Every
other limit on an operand (register widths, FORM 3, slots 12 to 15, FN ranges) is in its type. -/

namespace Sys2Proof

/-- A value that fits an 8-bit OFF or LEN field (R83). -/
def fitsByte (n : Nat) : Bool := n < 256

/-- The instruction's OFF and LEN fit their fields (R81, R83). Whether they are legal for the command is checked
when it runs (R283), not here. -/
def Instr.wf : Instr → Bool
  | .nop => true
  | .fadd _ _ _ => true
  | .sadd _ _ _ => true
  | .fsub _ _ _ => true
  | .ssub _ _ _ => true
  | .fneg _ _ => true
  | .sneg _ _ => true
  | .fmul _ _ _ => true
  | .smul _ _ _ => true
  | .fsqr _ _ => true
  | .ssqr _ _ => true
  | .finv _ _ _ => true
  | .sinv _ _ _ => true
  | .fsqrt _ _ _ => true
  | .ssqrt _ _ _ => true
  | .fnorm _ _ => true
  | .snorm _ _ => true
  | .fsel _ _ _ _ => true
  | .ssel _ _ _ _ => true
  | .fisz _ _ => true
  | .sisz _ _ => true
  | .fisodd _ _ => true
  | .sisodd _ _ => true
  | .feq _ _ _ => true
  | .seq _ _ _ => true
  | .sishigh _ _ => true
  | .fldc _ _ => true
  | .sldc _ _ => true
  | .fdec _ _ off len => fitsByte off && fitsByte len
  | .sdec _ _ off len => fitsByte off && fitsByte len
  | .fenc _ off len => fitsByte off && fitsByte len
  | .senc _ off len => fitsByte off && fitsByte len
  | .sred _ off len => fitsByte off && fitsByte len
  | .srednz _ off len => fitsByte off && fitsByte len
  | .padd _ _ _ => true
  | .paddm _ _ _ => true
  | .pdbl _ _ => true
  | .pneg _ _ => true
  | .pmul _ _ _ => true
  | .ptoaff _ _ => true
  | .pfroma _ _ => true
  | .psel _ _ _ _ => true
  | .pisid _ _ => true
  | .peq _ _ _ => true
  | .pldi _ => true
  | .aldi _ => true
  | .aldg _ => true
  | .aneg _ _ => true
  | .aonc _ _ => true
  | .aisid _ _ => true
  | .asel _ _ _ _ => true
  | .aget _ _ _ => true
  | .aset _ _ _ _ => true
  | .penc _ _ off _ => fitsByte off
  | .pdec _ _ off len => fitsByte off && fitsByte len
  | .cfgw _ off len => fitsByte off && fitsByte len
  | .cfglock => true
  | .kmov _ _ => true
  | .knot _ _ => true
  | .kand _ _ _ => true
  | .kor _ _ _ => true
  | .kxor _ _ _ => true
  | .kclr _ => true
  | .kset _ => true

end Sys2Proof
end

