-- ==== Sys2Proof/Decode.lean ====
section
/-! DEFINITION. Decoding a command word (R80 to R86) and, after it, encoding one. The opcode map of R84 stands here
as a list of rows, mask and match as the spec gives them, and `decode` is the loop of R85 over that list. -/

namespace Sys2Proof

/-- Why a word decodes to no command: each is the ILLEGAL error of R280. -/
inductive Reject where
  /-- The word matches no row of the opcode map: a reserved opcode, a nonzero unused field, a Q or A index of 8 or
  more, an FN out of range, or a wrong M bit (R86). -/
  | noRow
  /-- PENC with FORM = 3 (R85). -/
  | pencForm
  /-- CFGW with a slot number of 12 or more (R85). -/
  | cfgwSlot
deriving DecidableEq, Repr

/-- What the decoder answers: a command, or a rejection by name. -/
inductive Decoded where
  | instr (i : Instr)
  | illegal (why : Reject)
deriving DecidableEq, Repr

/-! ### Fields of a word (R80, R81) -/

/-- The 4-bit field whose lowest bit is `lo`: an F or S index (R82). -/
def eField (lo : Nat) (w : Word) : EReg := (w.extractLsb' lo 4).toFin

/-- The 3 low bits of the register field whose lowest bit is `lo`: a Q or A index (R82). -/
def pField (lo : Nat) (w : Word) : PReg := (w.extractLsb' lo 3).toFin

/-- The 2-bit field whose lowest bit is `lo`: a choice-bit index (R82). -/
def kField (lo : Nat) (w : Word) : KReg := (w.extractLsb' lo 2).toFin

/-- The 8-bit field whose lowest bit is `lo`, zero-extended: OFF or LEN (R83). -/
def byteField (lo : Nat) (w : Word) : Nat := (w.extractLsb' lo 8).toNat

/-- FLDC's constant of an FN value below 4 (R89, R126). -/
def fConstOf : Nat → FConst
  | 0 => .zero
  | 1 => .one
  | 2 => .a
  | _ => .b

/-- SLDC's constant of an FN value below 2 (R89, R126). -/
def sConstOf : Nat → SConst
  | 0 => .zero
  | _ => .one

/-- AGET's coordinate of an FN value below 2 (R177). -/
def coordOf : Nat → Coord
  | 0 => .x
  | _ => .y

/-- FLDC's constant: bits 1:0, all that the row leaves free of FN (R84). -/
def fConstField (w : Word) : FConst := fConstOf (w.extractLsb' 0 2).toNat

/-- SLDC's constant: bit 0 (R84). -/
def sConstField (w : Word) : SConst := sConstOf (w.extractLsb' 0 1).toNat

/-- AGET's coordinate: bit 0 (R84). -/
def coordField (w : Word) : Coord := coordOf (w.extractLsb' 0 1).toNat

/-- The SEC1 form of a FORM value (R81): 3 names none. -/
def formOf : Nat → Option Form
  | 0 => some .compressed
  | 1 => some .uncompressed
  | 2 => some .compact
  | _ => none

/-- The configuration slot of a slot number (R27): 12 and above name none. -/
def slotOf : Nat → Option Slot
  | 0 => some .L
  | 1 => some .FLAGS
  | 2 => some .P
  | 3 => some .N
  | 4 => some .A
  | 5 => some .B
  | 6 => some .GX
  | 7 => some .GY
  | 8 => some .R2P
  | 9 => some .R2N
  | 10 => some .PINV
  | 11 => some .NINV
  | _ => none

/-- A PENC word: FORM = 3 is illegal (R85). -/
def pencOf (w : Word) : Decoded :=
  match formOf (w.extractLsb' 23 2).toNat with
  | some form => .instr (.penc (pField 16 w) (kField 20 w) (byteField 0 w) form)
  | none => .illegal .pencForm

/-- A CFGW word: a slot number of 12 or more is illegal (R85). -/
def cfgwOf (w : Word) : Decoded :=
  match slotOf (w.extractLsb' 16 4).toNat with
  | some slot => .instr (.cfgw slot (byteField 0 w) (byteField 8 w))
  | none => .illegal .cfgwSlot

/-! ### The opcode map (R84) -/

/-- One row of the opcode map: its mnemonic, `match`, `mask`, and the extraction of its operands. -/
structure Row where
  mnemonic : String
  pat : Word
  mask : Word
  build : Word → Decoded

/-- The row's fixed bits all stand in the word (R85). -/
def Row.fits (r : Row) (w : Word) : Bool := w &&& r.mask == r.pat

/-- The rows of the format-R element commands and NOP (OP 0x00 to 0x0E). -/
def elementRows : List Row :=
  [⟨"NOP", 0x00000000, 0xFFFFFFFF, fun _ => .instr .nop⟩,
   ⟨"FADD", 0x04000000, 0xFFF000FF, fun w => .instr (.fadd (eField 16 w) (eField 12 w) (eField 8 w))⟩,
   ⟨"SADD", 0x06000000, 0xFFF000FF, fun w => .instr (.sadd (eField 16 w) (eField 12 w) (eField 8 w))⟩,
   ⟨"FSUB", 0x08000000, 0xFFF000FF, fun w => .instr (.fsub (eField 16 w) (eField 12 w) (eField 8 w))⟩,
   ⟨"SSUB", 0x0A000000, 0xFFF000FF, fun w => .instr (.ssub (eField 16 w) (eField 12 w) (eField 8 w))⟩,
   ⟨"FNEG", 0x0C000000, 0xFFF00FFF, fun w => .instr (.fneg (eField 16 w) (eField 12 w))⟩,
   ⟨"SNEG", 0x0E000000, 0xFFF00FFF, fun w => .instr (.sneg (eField 16 w) (eField 12 w))⟩,
   ⟨"FMUL", 0x10000000, 0xFFF000FF, fun w => .instr (.fmul (eField 16 w) (eField 12 w) (eField 8 w))⟩,
   ⟨"SMUL", 0x12000000, 0xFFF000FF, fun w => .instr (.smul (eField 16 w) (eField 12 w) (eField 8 w))⟩,
   ⟨"FSQR", 0x14000000, 0xFFF00FFF, fun w => .instr (.fsqr (eField 16 w) (eField 12 w))⟩,
   ⟨"SSQR", 0x16000000, 0xFFF00FFF, fun w => .instr (.ssqr (eField 16 w) (eField 12 w))⟩,
   ⟨"FINV", 0x18000000, 0xFFC00FFF, fun w => .instr (.finv (eField 16 w) (kField 20 w) (eField 12 w))⟩,
   ⟨"SINV", 0x1A000000, 0xFFC00FFF, fun w => .instr (.sinv (eField 16 w) (kField 20 w) (eField 12 w))⟩,
   ⟨"FSQRT", 0x1C000000, 0xFFC00FFF, fun w => .instr (.fsqrt (eField 16 w) (kField 20 w) (eField 12 w))⟩,
   ⟨"SSQRT", 0x1E000000, 0xFFC00FFF, fun w => .instr (.ssqrt (eField 16 w) (kField 20 w) (eField 12 w))⟩,
   ⟨"FNORM", 0x20000000, 0xFFF00FFF, fun w => .instr (.fnorm (eField 16 w) (eField 12 w))⟩,
   ⟨"SNORM", 0x22000000, 0xFFF00FFF, fun w => .instr (.snorm (eField 16 w) (eField 12 w))⟩,
   ⟨"FSEL", 0x24000000, 0xFF3000FF, fun w => .instr (.fsel (eField 16 w) (eField 12 w) (eField 8 w) (kField 22 w))⟩,
   ⟨"SSEL", 0x26000000, 0xFF3000FF, fun w => .instr (.ssel (eField 16 w) (eField 12 w) (eField 8 w) (kField 22 w))⟩,
   ⟨"FISZ", 0x28000000, 0xFFCF0FFF, fun w => .instr (.fisz (kField 20 w) (eField 12 w))⟩,
   ⟨"SISZ", 0x2A000000, 0xFFCF0FFF, fun w => .instr (.sisz (kField 20 w) (eField 12 w))⟩,
   ⟨"FISODD", 0x2C000000, 0xFFCF0FFF, fun w => .instr (.fisodd (kField 20 w) (eField 12 w))⟩,
   ⟨"SISODD", 0x2E000000, 0xFFCF0FFF, fun w => .instr (.sisodd (kField 20 w) (eField 12 w))⟩,
   ⟨"FEQ", 0x30000000, 0xFFCF00FF, fun w => .instr (.feq (kField 20 w) (eField 12 w) (eField 8 w))⟩,
   ⟨"SEQ", 0x32000000, 0xFFCF00FF, fun w => .instr (.seq (kField 20 w) (eField 12 w) (eField 8 w))⟩,
   ⟨"SISHIGH", 0x36000000, 0xFFCF0FFF, fun w => .instr (.sishigh (kField 20 w) (eField 12 w))⟩,
   ⟨"FLDC", 0x38000000, 0xFFF0FFFC, fun w => .instr (.fldc (eField 16 w) (fConstField w))⟩,
   ⟨"SLDC", 0x3A000000, 0xFFF0FFFE, fun w => .instr (.sldc (eField 16 w) (sConstField w))⟩]

/-- The rows of the format-B element commands (OP 0x10 to 0x13). -/
def byteRows : List Row :=
  [⟨"FDEC", 0x40000000, 0xFFC00000, fun w => .instr (.fdec (eField 16 w) (kField 20 w) (byteField 0 w) (byteField 8 w))⟩,
   ⟨"SDEC", 0x42000000, 0xFFC00000, fun w => .instr (.sdec (eField 16 w) (kField 20 w) (byteField 0 w) (byteField 8 w))⟩,
   ⟨"FENC", 0x44000000, 0xFFF00000, fun w => .instr (.fenc (eField 16 w) (byteField 0 w) (byteField 8 w))⟩,
   ⟨"SENC", 0x46000000, 0xFFF00000, fun w => .instr (.senc (eField 16 w) (byteField 0 w) (byteField 8 w))⟩,
   ⟨"SRED", 0x4A000000, 0xFFF00000, fun w => .instr (.sred (eField 16 w) (byteField 0 w) (byteField 8 w))⟩,
   ⟨"SREDNZ", 0x4E000000, 0xFFF00000, fun w => .instr (.srednz (eField 16 w) (byteField 0 w) (byteField 8 w))⟩]

/-- The rows of the projective commands (OP 0x20 to 0x2A). -/
def projectiveRows : List Row :=
  [⟨"PADD", 0x80000000, 0xFFF888FF, fun w => .instr (.padd (pField 16 w) (pField 12 w) (pField 8 w))⟩,
   ⟨"PADDM", 0x84000000, 0xFFF888FF, fun w => .instr (.paddm (pField 16 w) (pField 12 w) (pField 8 w))⟩,
   ⟨"PDBL", 0x88000000, 0xFFF88FFF, fun w => .instr (.pdbl (pField 16 w) (pField 12 w))⟩,
   ⟨"PNEG", 0x8C000000, 0xFFF88FFF, fun w => .instr (.pneg (pField 16 w) (pField 12 w))⟩,
   ⟨"PMUL", 0x90000000, 0xFFF880FF, fun w => .instr (.pmul (pField 16 w) (pField 12 w) (eField 8 w))⟩,
   ⟨"PTOAFF", 0x94000000, 0xFFF88FFF, fun w => .instr (.ptoaff (pField 16 w) (pField 12 w))⟩,
   ⟨"PFROMA", 0x98000000, 0xFFF88FFF, fun w => .instr (.pfroma (pField 16 w) (pField 12 w))⟩,
   ⟨"PSEL", 0x9C000000, 0xFF3888FF, fun w => .instr (.psel (pField 16 w) (pField 12 w) (pField 8 w) (kField 22 w))⟩,
   ⟨"PISID", 0xA0000000, 0xFFCF8FFF, fun w => .instr (.pisid (kField 20 w) (pField 12 w))⟩,
   ⟨"PEQ", 0xA4000000, 0xFFCF88FF, fun w => .instr (.peq (kField 20 w) (pField 12 w) (pField 8 w))⟩,
   ⟨"PLDI", 0xA8000000, 0xFFF8FFFF, fun w => .instr (.pldi (pField 16 w))⟩]

/-- The rows of the affine, codec, configuration and choice-bit commands (OP 0x30 to 0x3E). -/
def affineControlRows : List Row :=
  [⟨"ALDI", 0xC0000000, 0xFFF8FFFF, fun w => .instr (.aldi (pField 16 w))⟩,
   ⟨"ALDG", 0xC4000000, 0xFFF8FFFF, fun w => .instr (.aldg (pField 16 w))⟩,
   ⟨"ANEG", 0xC8000000, 0xFFF88FFF, fun w => .instr (.aneg (pField 16 w) (pField 12 w))⟩,
   ⟨"AONC", 0xCC000000, 0xFFCF8FFF, fun w => .instr (.aonc (kField 20 w) (pField 12 w))⟩,
   ⟨"AISID", 0xD0000000, 0xFFCF8FFF, fun w => .instr (.aisid (kField 20 w) (pField 12 w))⟩,
   ⟨"ASEL", 0xD4000000, 0xFF3888FF, fun w => .instr (.asel (pField 16 w) (pField 12 w) (pField 8 w) (kField 22 w))⟩,
   ⟨"AGET", 0xD8000000, 0xFFF08FFE, fun w => .instr (.aget (eField 16 w) (pField 12 w) (coordField w))⟩,
   ⟨"ASET", 0xDC000000, 0xFFC800FF, fun w => .instr (.aset (pField 16 w) (kField 20 w) (eField 12 w) (eField 8 w))⟩,
   ⟨"PENC", 0xE0000000, 0xFE48FF00, fun w => pencOf w⟩,
   ⟨"PDEC", 0xE4000000, 0xFFC80000, fun w => .instr (.pdec (pField 16 w) (kField 20 w) (byteField 0 w) (byteField 8 w))⟩,
   ⟨"CFGW", 0xF0000000, 0xFFF00000, fun w => cfgwOf w⟩,
   ⟨"CFGLOCK", 0xF4000000, 0xFFFFFFFF, fun _ => .instr .cfglock⟩,
   ⟨"KMOV", 0xF8000000, 0xFFCFCFFF, fun w => .instr (.kmov (kField 20 w) (kField 12 w))⟩,
   ⟨"KNOT", 0xF8000001, 0xFFCFCFFF, fun w => .instr (.knot (kField 20 w) (kField 12 w))⟩,
   ⟨"KAND", 0xF8000002, 0xFFCFCCFF, fun w => .instr (.kand (kField 20 w) (kField 12 w) (kField 8 w))⟩,
   ⟨"KOR", 0xF8000003, 0xFFCFCCFF, fun w => .instr (.kor (kField 20 w) (kField 12 w) (kField 8 w))⟩,
   ⟨"KXOR", 0xF8000004, 0xFFCFCCFF, fun w => .instr (.kxor (kField 20 w) (kField 12 w) (kField 8 w))⟩,
   ⟨"KCLR", 0xF8000005, 0xFFCFFFFF, fun w => .instr (.kclr (kField 20 w))⟩,
   ⟨"KSET", 0xF8000006, 0xFFCFFFFF, fun w => .instr (.kset (kField 20 w))⟩]

/-- The complete opcode map (R84). -/
def opcodeTable : List Row := elementRows ++ byteRows ++ projectiveRows ++ affineControlRows

/-- The decode algorithm of R85, total on all 2^32 words. -/
def decode (w : Word) : Decoded :=
  match opcodeTable.find? (fun r => r.fits w) with
  | some r => r.build w
  | none => .illegal .noRow

/-- What the decoder reads from an instruction whose bits are `w`, numbered as the opcode table numbers them: every
command is one 32-bit word (R80, R88), so a number of more than 32 bits is no command. -/
def decodeTableWord (_nbits w : Nat) : Option Instr :=
  if w < 2 ^ 32 then
    match decode (BitVec.ofNat 32 w) with
    | .instr i => some i
    | .illegal _ => none
  else none

/-! ### Encoding -/

/-- The value `v` as a field whose lowest bit is `lo`. -/
def place (lo v : Nat) : Word := BitVec.ofNat 32 v <<< lo

/-- FN of FLDC (R89). -/
def FConst.code : FConst → Nat
  | .zero => 0
  | .one => 1
  | .a => 2
  | .b => 3

/-- FN of SLDC (R89). -/
def SConst.code : SConst → Nat
  | .zero => 0
  | .one => 1

/-- FN of AGET (R89). -/
def Coord.code : Coord → Nat
  | .x => 0
  | .y => 1

/-- FORM of PENC (R81). -/
def Form.code : Form → Nat
  | .compressed => 0
  | .uncompressed => 1
  | .compact => 2

/-- The number of a configuration slot (R27). -/
def Slot.code : Slot → Nat
  | .L => 0
  | .FLAGS => 1
  | .P => 2
  | .N => 3
  | .A => 4
  | .B => 5
  | .GX => 6
  | .GY => 7
  | .R2P => 8
  | .R2N => 9
  | .PINV => 10
  | .NINV => 11

/-- The command word of a well-formed instruction, from the encoding column of R84: the row's fixed bits, with each
operand in its field (R80, R81). -/
def encode : Instr → Word
  | .nop => 0x00000000
  | .fadd rd ra rb => 0x04000000 ||| place 16 rd ||| place 12 ra ||| place 8 rb
  | .sadd rd ra rb => 0x06000000 ||| place 16 rd ||| place 12 ra ||| place 8 rb
  | .fsub rd ra rb => 0x08000000 ||| place 16 rd ||| place 12 ra ||| place 8 rb
  | .ssub rd ra rb => 0x0A000000 ||| place 16 rd ||| place 12 ra ||| place 8 rb
  | .fneg rd ra => 0x0C000000 ||| place 16 rd ||| place 12 ra
  | .sneg rd ra => 0x0E000000 ||| place 16 rd ||| place 12 ra
  | .fmul rd ra rb => 0x10000000 ||| place 16 rd ||| place 12 ra ||| place 8 rb
  | .smul rd ra rb => 0x12000000 ||| place 16 rd ||| place 12 ra ||| place 8 rb
  | .fsqr rd ra => 0x14000000 ||| place 16 rd ||| place 12 ra
  | .ssqr rd ra => 0x16000000 ||| place 16 rd ||| place 12 ra
  | .finv rd kd ra => 0x18000000 ||| place 16 rd ||| place 20 kd ||| place 12 ra
  | .sinv rd kd ra => 0x1A000000 ||| place 16 rd ||| place 20 kd ||| place 12 ra
  | .fsqrt rd kd ra => 0x1C000000 ||| place 16 rd ||| place 20 kd ||| place 12 ra
  | .ssqrt rd kd ra => 0x1E000000 ||| place 16 rd ||| place 20 kd ||| place 12 ra
  | .fnorm rd ra => 0x20000000 ||| place 16 rd ||| place 12 ra
  | .snorm rd ra => 0x22000000 ||| place 16 rd ||| place 12 ra
  | .fsel rd ra rb ks => 0x24000000 ||| place 16 rd ||| place 12 ra ||| place 8 rb ||| place 22 ks
  | .ssel rd ra rb ks => 0x26000000 ||| place 16 rd ||| place 12 ra ||| place 8 rb ||| place 22 ks
  | .fisz kd ra => 0x28000000 ||| place 20 kd ||| place 12 ra
  | .sisz kd ra => 0x2A000000 ||| place 20 kd ||| place 12 ra
  | .fisodd kd ra => 0x2C000000 ||| place 20 kd ||| place 12 ra
  | .sisodd kd ra => 0x2E000000 ||| place 20 kd ||| place 12 ra
  | .feq kd ra rb => 0x30000000 ||| place 20 kd ||| place 12 ra ||| place 8 rb
  | .seq kd ra rb => 0x32000000 ||| place 20 kd ||| place 12 ra ||| place 8 rb
  | .sishigh kd ra => 0x36000000 ||| place 20 kd ||| place 12 ra
  | .fldc rd c => 0x38000000 ||| place 16 rd ||| place 0 c.code
  | .sldc rd c => 0x3A000000 ||| place 16 rd ||| place 0 c.code
  | .fdec rg kd off len => 0x40000000 ||| place 16 rg ||| place 20 kd ||| place 0 off ||| place 8 len
  | .sdec rg kd off len => 0x42000000 ||| place 16 rg ||| place 20 kd ||| place 0 off ||| place 8 len
  | .fenc rg off len => 0x44000000 ||| place 16 rg ||| place 0 off ||| place 8 len
  | .senc rg off len => 0x46000000 ||| place 16 rg ||| place 0 off ||| place 8 len
  | .sred rg off len => 0x4A000000 ||| place 16 rg ||| place 0 off ||| place 8 len
  | .srednz rg off len => 0x4E000000 ||| place 16 rg ||| place 0 off ||| place 8 len
  | .padd rd ra rb => 0x80000000 ||| place 16 rd ||| place 12 ra ||| place 8 rb
  | .paddm rd ra rb => 0x84000000 ||| place 16 rd ||| place 12 ra ||| place 8 rb
  | .pdbl rd ra => 0x88000000 ||| place 16 rd ||| place 12 ra
  | .pneg rd ra => 0x8C000000 ||| place 16 rd ||| place 12 ra
  | .pmul rd ra rb => 0x90000000 ||| place 16 rd ||| place 12 ra ||| place 8 rb
  | .ptoaff rd ra => 0x94000000 ||| place 16 rd ||| place 12 ra
  | .pfroma rd ra => 0x98000000 ||| place 16 rd ||| place 12 ra
  | .psel rd ra rb ks => 0x9C000000 ||| place 16 rd ||| place 12 ra ||| place 8 rb ||| place 22 ks
  | .pisid kd ra => 0xA0000000 ||| place 20 kd ||| place 12 ra
  | .peq kd ra rb => 0xA4000000 ||| place 20 kd ||| place 12 ra ||| place 8 rb
  | .pldi rd => 0xA8000000 ||| place 16 rd
  | .aldi rd => 0xC0000000 ||| place 16 rd
  | .aldg rd => 0xC4000000 ||| place 16 rd
  | .aneg rd ra => 0xC8000000 ||| place 16 rd ||| place 12 ra
  | .aonc kd ra => 0xCC000000 ||| place 20 kd ||| place 12 ra
  | .aisid kd ra => 0xD0000000 ||| place 20 kd ||| place 12 ra
  | .asel rd ra rb ks => 0xD4000000 ||| place 16 rd ||| place 12 ra ||| place 8 rb ||| place 22 ks
  | .aget rd ra c => 0xD8000000 ||| place 16 rd ||| place 12 ra ||| place 0 c.code
  | .aset rd kd ra rb => 0xDC000000 ||| place 16 rd ||| place 20 kd ||| place 12 ra ||| place 8 rb
  | .penc rg kd off form => 0xE0000000 ||| place 23 form.code ||| place 20 kd ||| place 16 rg ||| place 0 off
  | .pdec rg kd off len => 0xE4000000 ||| place 16 rg ||| place 20 kd ||| place 0 off ||| place 8 len
  | .cfgw slot off len => 0xF0000000 ||| place 16 slot.code ||| place 8 len ||| place 0 off
  | .cfglock => 0xF4000000
  | .kmov kd ka => 0xF8000000 ||| place 20 kd ||| place 12 ka
  | .knot kd ka => 0xF8000001 ||| place 20 kd ||| place 12 ka
  | .kand kd ka kb => 0xF8000002 ||| place 20 kd ||| place 12 ka ||| place 8 kb
  | .kor kd ka kb => 0xF8000003 ||| place 20 kd ||| place 12 ka ||| place 8 kb
  | .kxor kd ka kb => 0xF8000004 ||| place 20 kd ||| place 12 ka ||| place 8 kb
  | .kclr kd => 0xF8000005 ||| place 20 kd
  | .kset kd => 0xF8000006 ||| place 20 kd

end Sys2Proof
end

