-- ==== Sys2Proof/Machine/State.lean ====
section
/-! DEFINITION. The state of one ECC CORE and of the host accesses that reach it, as plain data, and its value
after reset (R20 to R34). -/

namespace Sys2Proof.Machine

/-- A projective triple (X, Y, Z) (R25). -/
structure Proj where
  x : Nat
  y : Nat
  z : Nat
deriving DecidableEq, Repr

/-- An affine triple (x, y, inf) (R26). -/
structure Affine where
  x : Nat
  y : Nat
  inf : Bool
deriving DecidableEq, Repr

/-- The twelve configuration slots CFG[0..11], in order (R27). -/
structure Cfg where
  l : Nat
  flags : Nat
  p : Nat
  n : Nat
  a : Nat
  b : Nat
  gx : Nat
  gy : Nat
  r2p : Nat
  r2n : Nat
  pinv : Nat
  ninv : Nat
deriving DecidableEq, Repr

/-- The error codes 0 to 8 of R280; codes 9 to 15 are never produced. -/
inductive ErrCode where
  | none
  | illegal
  | nocfg
  | locked
  | cfgcheck
  | len
  | tag
  | bounds
  | busy
deriving DecidableEq, Repr

/-- INFLIGHT: the accepted command word, and how many units of time are still to pass before it completes
(R32, R340). BUSY = 1 exactly while it is present (R33). -/
structure InFlight where
  word : Word
  left : Nat
deriving DecidableEq, Repr

/-- What the host bus asks for. An instruction fetch from the window is a read to the core (R52). -/
inductive AccessKind where
  | read
  | fetch
  | write (data : Word)
deriving DecidableEq, Repr

/-- One host access: its kind, its byte address on the platform's bus, and its width in bits (R52). -/
structure BusAccess where
  kind : AccessKind
  addr : Nat
  width : Nat
deriving DecidableEq, Repr

/-- What the core answers to the last host access: the value read, the completion of a write, or a bus error
(R52). -/
inductive BusResponse where
  | data (v : Word)
  | ack
  | busError
deriving DecidableEq, Repr

/-- What reaches the core from outside, one at a time (R21, R66, R303). -/
inductive Event where
  /-- A host access (R52). -/
  | access (a : BusAccess)
  /-- The host waits until BUSY = 0, by polling STATUS or by taking IRQ (R330). -/
  | wait
  /-- One unit of time passes with no host access (R340, R341). -/
  | tick
  /-- The platform's reset input (R320). -/
  | hardReset
deriving DecidableEq, Repr

/-- BUF, the core's only memory (R50): pairs of an offset and a byte, in one canonical form (`Memory.wf`). -/
abbrev Memory := List Host.Cell

/-- The state. Fields down to `inflight` are the spec's (R20); the rest are the model's own (log entries 1, 3
and 4): the instance parameters, the host accesses still to come, the core's answer to the last one, and the
number of free values drawn so far. BUSY is the view `State.busy` of `inflight` (R33), and IRQ is a function of
the state (R290). -/
structure State where
  /-- F[0..15] (R22). -/
  fRegs : Vector Nat 16
  /-- S[0..15] (R23). -/
  sRegs : Vector Nat 16
  /-- Q[0..7] (R25). -/
  qRegs : Vector Proj 8
  /-- A[0..7] (R26). -/
  aRegs : Vector Affine 8
  /-- K[0..3] (R29). -/
  kBits : Vector Bool 4
  /-- CFG[0..11] (R27). -/
  cfg : Cfg
  /-- LOCKED (R28). -/
  locked : Bool
  /-- BUF[0..255] (R30). -/
  buf : Memory
  /-- IE (R31). -/
  ie : Bool
  /-- DONE (R31). -/
  done : Bool
  /-- ERR (R31). -/
  err : Bool
  /-- ERRCODE (R31). -/
  errCode : ErrCode
  /-- ERRCMD (R31). -/
  errCmd : Word
  /-- RESLEN (R31). -/
  resLen : Byte
  /-- INFLIGHT, and with it BUSY (R31, R32). -/
  inflight : Option InFlight
  /-- The instance parameters W and BASE (R6). -/
  params : Params
  /-- What is still to reach the core, the next first. -/
  events : List Event
  /-- The answer to the last host access, if there was one. -/
  resp : Option BusResponse
  /-- How many free values have been drawn. -/
  draws : Nat
deriving DecidableEq, Repr

/-- BUSY: 1 while a command is in flight (R31, R33). -/
def State.busy (s : State) : Bool := s.inflight.isSome

/-- Why the machine stops with a fault. No reachable or unreachable state of this model does (the spec has no stuck
state, U17); a statement says so. -/
inductive Fault where
  /-- Raised by the shared buffer operations when asked for `len` bytes at `off` that do not all lie in
  BUF[0..255] (R50). Safe: the machine stops where the spec says that no command goes. The BOUNDS check stands
  before every such operation (R283). -/
  | outsideBuffer (off len : Nat)
deriving DecidableEq, Repr

/-- Why an instruction has no meaning. -/
inductive Refusal where
  /-- Raised by an arm of `exec` whose instruction is not modelled yet. Safe. No arm of this model raises it. -/
  | notModelled (mnemonic : String)
deriving DecidableEq, Repr

/-- What a step, or an instruction, answers. -/
abbrev Result := Host.Outcome State Fault Refusal

/-- The projective identity (0, 1, 0) (R25). -/
def Proj.identity : Proj := ⟨0, 1, 0⟩

/-- The affine identity sentinel (0, 0, 1) (R26, D21). -/
def Affine.identity : Affine := ⟨0, 0, true⟩

/-- The configuration after reset: every slot 0 (R34). -/
def Cfg.zero : Cfg := ⟨0, 0, 0, 0, 0, 0, 0, 0, 0, 0, 0, 0⟩

/-- Every piece of state at the value of R34, for a core built with parameters `p`. The model's own fields: nothing
is to come from outside, nothing was answered and nothing drawn (log entries 3 and 4). -/
def State.resetOf (p : Params) : State where
  fRegs := Vector.replicate 16 0
  sRegs := Vector.replicate 16 0
  qRegs := Vector.replicate 8 Proj.identity
  aRegs := Vector.replicate 8 Affine.identity
  kBits := Vector.replicate 4 false
  cfg := Cfg.zero
  locked := false
  buf := []
  ie := false
  done := false
  err := false
  errCode := .none
  errCmd := 0
  resLen := 0
  inflight := none
  params := p
  events := []
  resp := none
  draws := 0

/-- The reset state of the instance with the spec's reference limb width 64 (R6, D4) and its window at bus address 0
(DESIGN CHOICE, log entry 1). -/
def State.reset : State := State.resetOf ⟨.w64, 0⟩

end Sys2Proof.Machine
end

