-- ==== Sys2Proof/Machine/Modular.lean ====
section
/-! DEFINITION. Modular arithmetic on canonical values (R8, R191): sums, differences, products, powers, the modular
inverse (R11, R117), the modular square root (R119), and the Montgomery form that the core keeps inside (R24). -/

namespace Sys2Proof.Machine

/-- (u + v) mod m (R112, R191). -/
def addMod (m u v : Nat) : Nat := (u + v) % m

/-- (u - v) mod m, the least non-negative residue (R8, R113, R191). -/
def subMod (m u v : Nat) : Nat := (u + (m - v % m)) % m

/-- (u · v) mod m (R115, R191). -/
def mulMod (m u v : Nat) : Nat := (u * v) % m

/-- (0 - v) mod m (R114). -/
def negMod (m v : Nat) : Nat := subMod m 0 v

/-- b^e mod m by squaring, with one unit of fuel for each bit of e. -/
def powModFuel (m : Nat) : Nat → Nat → Nat → Nat
  | 0, _, _ => 1 % m
  | fuel + 1, b, e =>
    let h := powModFuel m fuel (b * b % m) (e / 2)
    if e % 2 = 1 then b * h % m else h

/-- b^e mod m. -/
def powMod (m b e : Nat) : Nat := powModFuel m (e.log2 + 1) (b % m) e

/-! ### The modular inverse -/

/-- The extended Euclidean algorithm: from remainders r0, r1 with r0 ≡ t0·a and r1 ≡ t1·a (mod m), the last nonzero
remainder and its t. -/
def euclid (m : Nat) : Nat → Nat → Nat → Nat → Nat → Nat × Nat
  | 0, r0, _, t0, _ => (r0, t0)
  | fuel + 1, r0, r1, t0, t1 =>
    if r1 = 0 then (r0, t0)
    else euclid m fuel r1 (r0 % r1) t1 (subMod m t0 (r0 / r1 * t1))

/-- a^-1 mod m where it exists (R11, R117): the t with a·t ≡ 1 (mod m), or none when gcd(a, m) ≠ 1. The algorithm is
not architectural (R118). -/
def invMod (m a : Nat) : Option Nat :=
  let (g, t) := euclid m (a + 1) m a 0 1
  if g = 1 then some (t % m) else none

/-! ### The modular square root -/

/-- n = 2^s · q with q odd, as (s, q). -/
def splitTwos : Nat → Nat → Nat × Nat
  | 0, n => (0, n)
  | fuel + 1, n =>
    if n % 2 = 0 then
      let (s, q) := splitTwos fuel (n / 2)
      (s + 1, q)
    else (0, n)

/-- Some x^(2^r) with r < n is -1 mod m. -/
def reachesMinusOne (m : Nat) : Nat → Nat → Bool
  | 0, _ => false
  | n + 1, x => x == m - 1 || reachesMinusOne m n (x * x % m)

/-- m passes the strong probable-prime test to base b. -/
def strongTest (m b : Nat) : Bool :=
  let (s, q) := splitTwos (m.log2 + 1) (m - 1)
  let x := powMod m b q
  x == 1 || reachesMinusOne m s x

/-- The bases of `isPrime`. -/
def primeBases : List Nat := [2, 3, 5, 7, 11, 13, 17, 19, 23, 29, 31, 37, 41]

/-- No number from d on, tried for `fuel` numbers, divides m and has a square of at most m. -/
def noDivisor (m : Nat) : Nat → Nat → Bool
  | 0, _ => true
  | fuel + 1, d => if m < d * d then true else m % d != 0 && noDivisor m fuel (d + 1)

/-- The smallest composite that passes the strong test to every base of `primeBases` (PRESUMED, a published result; log
entry 5). -/
def strongTestBound : Nat := 3317044064679887385961981

/-- m is prime: the strong test refuses most composites at once; below its bound it is exact, and any other number that
passes it is tried by division. -/
def isPrime (m : Nat) : Bool :=
  2 ≤ m && primeBases.all (fun b => b % m == 0 || strongTest m b) && (decide (m < strongTestBound) || noDivisor m m 2)

/-- x^(2^n) mod m. -/
def squareTimes (m : Nat) : Nat → Nat → Nat
  | 0, x => x
  | n + 1, x => squareTimes m n (x * x % m)

/-- The first z at or after `z` with z^((m-1)/2) = -1, a non-residue of a prime m. -/
def findNonResidue (m : Nat) : Nat → Nat → Nat
  | 0, z => z
  | fuel + 1, z => if powMod m z ((m - 1) / 2) = m - 1 then z else findNonResidue m fuel (z + 1)

/-- The least i at or after `i` with t^(2^i) = 1. -/
def findOrder (m : Nat) : Nat → Nat → Nat → Nat
  | 0, i, _ => i
  | fuel + 1, i, t => if t = 1 then i else findOrder m fuel (i + 1) (t * t % m)

/-- The loop of the Tonelli–Shanks method. -/
def shanksLoop (m : Nat) : Nat → Nat → Nat → Nat → Nat → Nat
  | 0, _, _, _, x => x
  | fuel + 1, k, c, t, x =>
    if t ≤ 1 then x
    else
      let i := findOrder m k 0 t
      let b := squareTimes m (k - i - 1) c
      shanksLoop m fuel i (b * b % m) (t * (b * b % m) % m) (x * b % m)

/-- A candidate root of α, by the method of Tonelli and Shanks. It only saves the search of `evenRoot`, which checks
it. -/
def rootCandidate (m α : Nat) : Nat :=
  let (s, q) := splitTwos (m.log2 + 1) (m - 1)
  let z := findNonResidue m 1000 2
  shanksLoop m (s + 1) s (powMod m z q) (powMod m α q) (powMod m α ((q + 1) / 2))

/-- r is an even square root of α in [0, m). -/
def isEvenRoot (m α r : Nat) : Bool := r < m && r % 2 == 0 && r * r % m == α

/-- The least even root of α at or after r, tried for `fuel` numbers. -/
def searchEvenRoot (m α : Nat) : Nat → Nat → Option Nat
  | 0, _ => none
  | fuel + 1, r => if isEvenRoot m α r then some r else searchEvenRoot m α fuel (r + 1)

/-- "the r in [0, Mod) with r·r mod Mod == α and r even, if one exists" (R119), for a prime modulus: a candidate that
checks; none where Euler's criterion says that α has no root; else by search. -/
def evenRoot (m α : Nat) : Option Nat :=
  let c := rootCandidate m α
  let r := if c % 2 = 0 then c else m - c
  if isEvenRoot m α r then some r
  else if α ≠ 0 ∧ powMod m α ((m - 1) / 2) ≠ 1 then none
  else searchEvenRoot m α m 0

/-- The square root of R119 with its validity: none where it is masked-invalid. -/
def sqrtMod (m α : Nat) : Option Nat :=
  if m % 4 = 3 then
    let β := powMod m α ((m + 1) / 4)
    if β * β % m = α then some β else none
  else evenRoot m α

/-! ### The Montgomery form inside the core (R24) -/

/-- One pass of the REDC loop for W-bit limbs. -/
def redcStep (w m minv t : Nat) : Nat :=
  let k := (t % 2 ^ w) * minv % 2 ^ w
  (t + k * m) / 2 ^ w

/-- The REDC loop, `limbs` passes. -/
def redcLoop (w m minv : Nat) : Nat → Nat → Nat
  | 0, t => t
  | n + 1, t => redcLoop w m minv n (redcStep w m minv t)

/-- REDC(T) = T · R^-1 mod M (R24). -/
def redc (w m minv limbs t : Nat) : Nat :=
  let r := redcLoop w m minv limbs t
  if m ≤ r then r - m else r

/-- The product of two representatives (R24). -/
def montMul (w m minv limbs a b : Nat) : Nat := redc w m minv limbs (a * b)

/-- The representative of a true value (R24). -/
def toMont (w m minv limbs r2 v : Nat) : Nat := redc w m minv limbs (v * r2)

/-- The true value of a representative (R24). -/
def fromMont (w m minv limbs v : Nat) : Nat := redc w m minv limbs v

end Sys2Proof.Machine
end

