-- ==== Sys2Proof/Machine/Formulas.lean ====
section
/-! DEFINITION. The curve (R170); the six straight-line point formulas exactly as R193 to R198 list their steps: one `let`
for each step, in order (R191); and whether a configuration is sound (D10). -/

namespace Sys2Proof.Machine

/-- α = x³ + a·x + b mod p (R170, R243). -/
def curveRhs (p a b x : Nat) : Nat := (x * x * x + a * x + b) % p

/-- OnCurve(x, y) (R170). -/
def onCurve (c : Cfg) (x y : Nat) : Bool := y * y % c.p == curveRhs c.p c.a c.b x

/-- Algorithm 1: complete addition, generic a (R193). -/
def alg1 (p a b3 : Nat) (q1 q2 : Proj) : Proj :=
  let X1 := q1.x
  let Y1 := q1.y
  let Z1 := q1.z
  let X2 := q2.x
  let Y2 := q2.y
  let Z2 := q2.z
  let t0 := mulMod p X1 X2
  let t1 := mulMod p Y1 Y2
  let t2 := mulMod p Z1 Z2
  let t3 := addMod p X1 Y1
  let t4 := addMod p X2 Y2
  let t3 := mulMod p t3 t4
  let t4 := addMod p t0 t1
  let t3 := subMod p t3 t4
  let t4 := addMod p X1 Z1
  let t5 := addMod p X2 Z2
  let t4 := mulMod p t4 t5
  let t5 := addMod p t0 t2
  let t4 := subMod p t4 t5
  let t5 := addMod p Y1 Z1
  let X3 := addMod p Y2 Z2
  let t5 := mulMod p t5 X3
  let X3 := addMod p t1 t2
  let t5 := subMod p t5 X3
  let Z3 := mulMod p a t4
  let X3 := mulMod p b3 t2
  let Z3 := addMod p X3 Z3
  let X3 := subMod p t1 Z3
  let Z3 := addMod p t1 Z3
  let Y3 := mulMod p X3 Z3
  let t1 := addMod p t0 t0
  let t1 := addMod p t1 t0
  let t2 := mulMod p a t2
  let t4 := mulMod p b3 t4
  let t1 := addMod p t1 t2
  let t2 := subMod p t0 t2
  let t2 := mulMod p a t2
  let t4 := addMod p t4 t2
  let t0 := mulMod p t1 t4
  let Y3 := addMod p Y3 t0
  let t0 := mulMod p t5 t4
  let X3 := mulMod p t3 X3
  let X3 := subMod p X3 t0
  let t0 := mulMod p t3 t1
  let Z3 := mulMod p t5 Z3
  let Z3 := addMod p Z3 t0
  ⟨X3, Y3, Z3⟩

/-- Algorithm 2: mixed addition of the affine point (X2, Y2), generic a (R194). -/
def alg2 (p a b3 : Nat) (q1 : Proj) (X2 Y2 : Nat) : Proj :=
  let X1 := q1.x
  let Y1 := q1.y
  let Z1 := q1.z
  let t0 := mulMod p X1 X2
  let t1 := mulMod p Y1 Y2
  let t3 := addMod p X2 Y2
  let t4 := addMod p X1 Y1
  let t3 := mulMod p t3 t4
  let t4 := addMod p t0 t1
  let t3 := subMod p t3 t4
  let t4 := mulMod p X2 Z1
  let t4 := addMod p t4 X1
  let t5 := mulMod p Y2 Z1
  let t5 := addMod p t5 Y1
  let Z3 := mulMod p a t4
  let X3 := mulMod p b3 Z1
  let Z3 := addMod p X3 Z3
  let X3 := subMod p t1 Z3
  let Z3 := addMod p t1 Z3
  let Y3 := mulMod p X3 Z3
  let t1 := addMod p t0 t0
  let t1 := addMod p t1 t0
  let t2 := mulMod p a Z1
  let t4 := mulMod p b3 t4
  let t1 := addMod p t1 t2
  let t2 := subMod p t0 t2
  let t2 := mulMod p a t2
  let t4 := addMod p t4 t2
  let t0 := mulMod p t1 t4
  let Y3 := addMod p Y3 t0
  let t0 := mulMod p t5 t4
  let X3 := mulMod p t3 X3
  let X3 := subMod p X3 t0
  let t0 := mulMod p t3 t1
  let Z3 := mulMod p t5 Z3
  let Z3 := addMod p Z3 t0
  ⟨X3, Y3, Z3⟩

/-- Algorithm 3: doubling, generic a (R195). -/
def alg3 (p a b3 : Nat) (q : Proj) : Proj :=
  let X := q.x
  let Y := q.y
  let Z := q.z
  let t0 := mulMod p X X
  let t1 := mulMod p Y Y
  let t2 := mulMod p Z Z
  let t3 := mulMod p X Y
  let t3 := addMod p t3 t3
  let Z3 := mulMod p X Z
  let Z3 := addMod p Z3 Z3
  let X3 := mulMod p a Z3
  let Y3 := mulMod p b3 t2
  let Y3 := addMod p X3 Y3
  let X3 := subMod p t1 Y3
  let Y3 := addMod p t1 Y3
  let Y3 := mulMod p X3 Y3
  let X3 := mulMod p t3 X3
  let Z3 := mulMod p b3 Z3
  let t2 := mulMod p a t2
  let t3 := subMod p t0 t2
  let t3 := mulMod p a t3
  let t3 := addMod p t3 Z3
  let Z3 := addMod p t0 t0
  let t0 := addMod p Z3 t0
  let t0 := addMod p t0 t2
  let t0 := mulMod p t0 t3
  let Y3 := addMod p Y3 t0
  let t2 := mulMod p Y Z
  let t2 := addMod p t2 t2
  let t0 := mulMod p t2 t3
  let X3 := subMod p X3 t0
  let Z3 := mulMod p t2 t1
  let Z3 := addMod p Z3 Z3
  let Z3 := addMod p Z3 Z3
  ⟨X3, Y3, Z3⟩

/-- Algorithm 4: complete addition, a = -3 (R196). -/
def alg4 (p b : Nat) (q1 q2 : Proj) : Proj :=
  let X1 := q1.x
  let Y1 := q1.y
  let Z1 := q1.z
  let X2 := q2.x
  let Y2 := q2.y
  let Z2 := q2.z
  let t0 := mulMod p X1 X2
  let t1 := mulMod p Y1 Y2
  let t2 := mulMod p Z1 Z2
  let t3 := addMod p X1 Y1
  let t4 := addMod p X2 Y2
  let t3 := mulMod p t3 t4
  let t4 := addMod p t0 t1
  let t3 := subMod p t3 t4
  let t4 := addMod p Y1 Z1
  let X3 := addMod p Y2 Z2
  let t4 := mulMod p t4 X3
  let X3 := addMod p t1 t2
  let t4 := subMod p t4 X3
  let X3 := addMod p X1 Z1
  let Y3 := addMod p X2 Z2
  let X3 := mulMod p X3 Y3
  let Y3 := addMod p t0 t2
  let Y3 := subMod p X3 Y3
  let Z3 := mulMod p b t2
  let X3 := subMod p Y3 Z3
  let Z3 := addMod p X3 X3
  let X3 := addMod p X3 Z3
  let Z3 := subMod p t1 X3
  let X3 := addMod p t1 X3
  let Y3 := mulMod p b Y3
  let t1 := addMod p t2 t2
  let t2 := addMod p t1 t2
  let Y3 := subMod p Y3 t2
  let Y3 := subMod p Y3 t0
  let t1 := addMod p Y3 Y3
  let Y3 := addMod p t1 Y3
  let t1 := addMod p t0 t0
  let t0 := addMod p t1 t0
  let t0 := subMod p t0 t2
  let t1 := mulMod p t4 Y3
  let t2 := mulMod p t0 Y3
  let Y3 := mulMod p X3 Z3
  let Y3 := addMod p Y3 t2
  let X3 := mulMod p t3 X3
  let X3 := subMod p X3 t1
  let Z3 := mulMod p t4 Z3
  let t1 := mulMod p t3 t0
  let Z3 := addMod p Z3 t1
  ⟨X3, Y3, Z3⟩

/-- Algorithm 5: mixed addition of the affine point (X2, Y2), a = -3 (R197). -/
def alg5 (p b : Nat) (q1 : Proj) (X2 Y2 : Nat) : Proj :=
  let X1 := q1.x
  let Y1 := q1.y
  let Z1 := q1.z
  let t0 := mulMod p X1 X2
  let t1 := mulMod p Y1 Y2
  let t3 := addMod p X2 Y2
  let t4 := addMod p X1 Y1
  let t3 := mulMod p t3 t4
  let t4 := addMod p t0 t1
  let t3 := subMod p t3 t4
  let t4 := mulMod p Y2 Z1
  let t4 := addMod p t4 Y1
  let Y3 := mulMod p X2 Z1
  let Y3 := addMod p Y3 X1
  let Z3 := mulMod p b Z1
  let X3 := subMod p Y3 Z3
  let Z3 := addMod p X3 X3
  let X3 := addMod p X3 Z3
  let Z3 := subMod p t1 X3
  let X3 := addMod p t1 X3
  let Y3 := mulMod p b Y3
  let t1 := addMod p Z1 Z1
  let t2 := addMod p t1 Z1
  let Y3 := subMod p Y3 t2
  let Y3 := subMod p Y3 t0
  let t1 := addMod p Y3 Y3
  let Y3 := addMod p t1 Y3
  let t1 := addMod p t0 t0
  let t0 := addMod p t1 t0
  let t0 := subMod p t0 t2
  let t1 := mulMod p t4 Y3
  let t2 := mulMod p t0 Y3
  let Y3 := mulMod p X3 Z3
  let Y3 := addMod p Y3 t2
  let X3 := mulMod p t3 X3
  let X3 := subMod p X3 t1
  let Z3 := mulMod p t4 Z3
  let t1 := mulMod p t3 t0
  let Z3 := addMod p Z3 t1
  ⟨X3, Y3, Z3⟩

/-- Algorithm 6: doubling, a = -3 (R198). -/
def alg6 (p b : Nat) (q : Proj) : Proj :=
  let X := q.x
  let Y := q.y
  let Z := q.z
  let t0 := mulMod p X X
  let t1 := mulMod p Y Y
  let t2 := mulMod p Z Z
  let t3 := mulMod p X Y
  let t3 := addMod p t3 t3
  let Z3 := mulMod p X Z
  let Z3 := addMod p Z3 Z3
  let Y3 := mulMod p b t2
  let Y3 := subMod p Y3 Z3
  let X3 := addMod p Y3 Y3
  let Y3 := addMod p X3 Y3
  let X3 := subMod p t1 Y3
  let Y3 := addMod p t1 Y3
  let Y3 := mulMod p X3 Y3
  let X3 := mulMod p X3 t3
  let t3 := addMod p t2 t2
  let t2 := addMod p t2 t3
  let Z3 := mulMod p b Z3
  let Z3 := subMod p Z3 t2
  let Z3 := subMod p Z3 t0
  let t3 := addMod p Z3 Z3
  let Z3 := addMod p Z3 t3
  let t3 := addMod p t0 t0
  let t0 := addMod p t3 t0
  let t0 := subMod p t0 t2
  let t0 := mulMod p t0 Z3
  let Y3 := addMod p Y3 t0
  let t0 := mulMod p Y Z
  let t0 := addMod p t0 t0
  let Z3 := mulMod p t0 Z3
  let X3 := subMod p X3 Z3
  let Z3 := mulMod p t0 t1
  let Z3 := addMod p Z3 Z3
  let Z3 := addMod p Z3 Z3
  ⟨X3, Y3, Z3⟩

/-! ### Variant selection (R192) -/

/-- A_EQ_M3: bit 0 of FLAGS (R27, R192). -/
def Cfg.aEqM3 (c : Cfg) : Bool := c.flags % 2 == 1

/-- b3 = 3·b mod P (R7). -/
def Cfg.b3 (c : Cfg) : Nat := 3 * c.b % c.p

/-- ADD (R192). -/
def pointAdd (c : Cfg) (q1 q2 : Proj) : Proj :=
  if c.aEqM3 then alg4 c.p c.b q1 q2 else alg1 c.p c.a c.b3 q1 q2

/-- ADDM (R192). -/
def pointAddMixed (c : Cfg) (q1 : Proj) (x2 y2 : Nat) : Proj :=
  if c.aEqM3 then alg5 c.p c.b q1 x2 y2 else alg2 c.p c.a c.b3 q1 x2 y2

/-- DBL (R192). -/
def pointDouble (c : Cfg) (q : Proj) : Proj :=
  if c.aEqM3 then alg6 c.p c.b q else alg3 c.p c.a c.b3 q

/-! ### Scalar multiplication (R204) -/

/-- Entry i of the table, from the entries before it: DBL(T[i/2]) for even i, ADD(T[i-1], base) for odd i. -/
def tableEntry (c : Cfg) (base : Proj) (t : List Proj) (i : Nat) : Proj :=
  if i % 2 = 0 then pointDouble c (t.getD (i / 2) Proj.identity)
  else pointAdd c (t.getD (i - 1) Proj.identity) base

/-- The table with its first n + 2 entries: T[0] = (0, 1, 0), T[1] = base, and the next n in order. -/
def multiplesTable (c : Cfg) (base : Proj) : Nat → List Proj
  | 0 => [Proj.identity, base]
  | n + 1 =>
    let t := multiplesTable c base n
    t ++ [tableEntry c base t (n + 2)]

/-- The 16-entry table of R204. -/
def windowTable (c : Cfg) (base : Proj) : List Proj := multiplesTable c base 14

/-- Nibble i of k (R14). -/
def nibble (k i : Nat) : Nat := k / 16 ^ i % 16

/-- The table select: a scan of all 16 entries, from e = (0, 0, 0) (R204). -/
def selectEntry (t : List Proj) (d : Nat) : Proj :=
  (List.range 16).foldl (fun e j => if j = d then t.getD j Proj.identity else e) ⟨0, 0, 0⟩

/-- The loop of R204 over nibbles n-1 down to 0: four doublings, the select, one addition. -/
def windowLoop (c : Cfg) (t : List Proj) (k : Nat) : Nat → Proj → Proj
  | 0, q => q
  | i + 1, q =>
    let d := pointDouble c (pointDouble c (pointDouble c (pointDouble c q)))
    windowLoop c t k i (pointAdd c d (selectEntry t (nibble k i)))

/-- The scalar multiplication of R204 over `nib` nibbles. -/
def scalarMul (c : Cfg) (nib k : Nat) (base : Proj) : Proj :=
  windowLoop c (windowTable c base) k nib Proj.identity

/-! ### Sound configurations (D10)

The core does not check that its configuration is sound; the model decides it, because D10 and U3 give exact results under a sound
configuration and `any value` under every other one. -/

/-- The slope of the chord through two affine points, or of the tangent, with inv_p(0) = 0 (R11). -/
def affineSlope (p a : Nat) (q1 q2 : Affine) : Nat :=
  if q1.x = q2.x then mulMod p (3 * (q1.x * q1.x) + a) ((invMod p (addMod p q1.y q1.y)).getD 0)
  else mulMod p (subMod p q1.y q2.y) ((invMod p (subMod p q1.x q2.x)).getD 0)

/-- The sum of two affine points by the chord and tangent law. It serves the decision below alone; the core adds points by the
step lists. -/
def affineSum (p a : Nat) (q1 q2 : Affine) : Affine :=
  if q1.inf then q2
  else if q2.inf then q1
  else if q1.x = q2.x ∧ (q1.y + q2.y) % p = 0 then Affine.identity
  else
    let l := affineSlope p a q1 q2
    let x := subMod p (subMod p (l * l) q1.x) q2.x
    ⟨x, subMod p (l * subMod p q1.x x) q1.y, false⟩

/-- k times the affine point q, by doubling and adding, with one unit of fuel for each bit of k. -/
def affineMultiple (p a : Nat) : Nat → Nat → Affine → Affine
  | 0, _, _ => Affine.identity
  | fuel + 1, k, q =>
    let r := affineMultiple p a fuel (k / 2) (affineSum p a q q)
    if k % 2 = 1 then affineSum p a q r else r

/-- The number of points of the configured curve over GF(P), the identity among them, by trying every pair. -/
def countPoints (c : Cfg) : Nat :=
  1 + ((List.range c.p).map fun x => (List.range c.p).countP fun y => onCurve c x y).sum

/-- (P, N, A, B) of published curves of prime order (PRESUMED, general knowledge; log entry 5): for them nothing need be
computed. P-256 and secp256k1 are those of 95_test_vectors.md. -/
def publishedCurves : List (Nat × Nat × Nat × Nat) :=
  [ -- P-256
    (0xffffffff00000001000000000000000000000000ffffffffffffffffffffffff,
     0xffffffff00000000ffffffffffffffffbce6faada7179e84f3b9cac2fc632551,
     0xffffffff00000001000000000000000000000000fffffffffffffffffffffffc,
     0x5ac635d8aa3a93e7b3ebbd55769886bc651d06b0cc53b0f63bce3c3e27d2604b),
    -- secp256k1
    (0xfffffffffffffffffffffffffffffffffffffffffffffffffffffffefffffc2f,
     0xfffffffffffffffffffffffffffffffebaaedce6af48a03bbfd25e8cd0364141,
     0x0,
     0x7),
    -- P-192
    (0xfffffffffffffffffffffffffffffffeffffffffffffffff,
     0xffffffffffffffffffffffff99def836146bc9b1b4d22831,
     0xfffffffffffffffffffffffffffffffefffffffffffffffc,
     0x64210519e59c80e70fa7e9ab72243049feb8deecc146b9b1),
    -- P-224
    (0xffffffffffffffffffffffffffffffff000000000000000000000001,
     0xffffffffffffffffffffffffffff16a2e0b8f03e13dd29455c5c2a3d,
     0xfffffffffffffffffffffffffffffffefffffffffffffffffffffffe,
     0xb4050a850c04b3abf54132565044b0b7d7bfd8ba270b39432355ffb4),
    -- P-384
    (0xfffffffffffffffffffffffffffffffffffffffffffffffffffffffffffffffeffffffff0000000000000000ffffffff,
     0xffffffffffffffffffffffffffffffffffffffffffffffffc7634d81f4372ddf581a0db248b0a77aecec196accc52973,
     0xfffffffffffffffffffffffffffffffffffffffffffffffffffffffffffffffeffffffff0000000000000000fffffffc,
     0xb3312fa7e23ee7e4988e056be3f82d19181d9c6efe8141120314088f5013875ac656398d8a2ed19d2a85c8edd3ec2aef),
    -- P-521
    (0x1ffffffffffffffffffffffffffffffffffffffffffffffffffffffffffffffffffffffffffffffffffffffffffffffffffffffffffffffffffffffffffffffffff,
     0x1fffffffffffffffffffffffffffffffffffffffffffffffffffffffffffffffffa51868783bf2f966b7fcc0148f709a5d03bb5c9b8899c47aebb6fb71e91386409,
     0x1fffffffffffffffffffffffffffffffffffffffffffffffffffffffffffffffffffffffffffffffffffffffffffffffffffffffffffffffffffffffffffffffffc,
     0x51953eb9618e1c9a1f929a21a0b68540eea2da725b99b315f3b8b489918ef109e156193951ec7e937b1652c0bd3bb1bf073573df883d2c34f1ef451fd46b503f00),
    -- SM2
    (0xfffffffeffffffffffffffffffffffffffffffff00000000ffffffffffffffff,
     0xfffffffeffffffffffffffffffffffff7203df6b21c6052b53bbf40939d54123,
     0xfffffffeffffffffffffffffffffffffffffffff00000000fffffffffffffffc,
     0x28e9fa9e9d9f5e344d5a9e4bcf6509a7f39789f515ab8f92ddbcbd414d940e93),
    -- brainpoolP256r1
    (0xa9fb57dba1eea9bc3e660a909d838d726e3bf623d52620282013481d1f6e5377,
     0xa9fb57dba1eea9bc3e660a909d838d718c397aa3b561a6f7901e0e82974856a7,
     0x7d5a0975fc2c3057eef67530417affe7fb8055c126dc5c6ce94a4b44f330b5d9,
     0x26dc5c6ce94a4b44f330b5d9bbd77cbf958416295cf7e1ce6bccdc18ff8c07b6),
    -- brainpoolP256t1
    (0xa9fb57dba1eea9bc3e660a909d838d726e3bf623d52620282013481d1f6e5377,
     0xa9fb57dba1eea9bc3e660a909d838d718c397aa3b561a6f7901e0e82974856a7,
     0xa9fb57dba1eea9bc3e660a909d838d726e3bf623d52620282013481d1f6e5374,
     0x662c61c430d84ea4fe66a7733d0b76b7bf93ebc4af2f49256ae58101fee92b04),
    -- brainpoolP384r1
    (0x8cb91e82a3386d280f5d6f7e50e641df152f7109ed5456b412b1da197fb71123acd3a729901d1a71874700133107ec53,
     0x8cb91e82a3386d280f5d6f7e50e641df152f7109ed5456b31f166e6cac0425a7cf3ab6af6b7fc3103b883202e9046565,
     0x7bc382c63d8c150c3c72080ace05afa0c2bea28e4fb22787139165efba91f90f8aa5814a503ad4eb04a8c7dd22ce2826,
     0x4a8c7dd22ce28268b39b55416f0447c2fb77de107dcd2a62e880ea53eeb62d57cb4390295dbc9943ab78696fa504c11),
    -- brainpoolP384t1
    (0x8cb91e82a3386d280f5d6f7e50e641df152f7109ed5456b412b1da197fb71123acd3a729901d1a71874700133107ec53,
     0x8cb91e82a3386d280f5d6f7e50e641df152f7109ed5456b31f166e6cac0425a7cf3ab6af6b7fc3103b883202e9046565,
     0x8cb91e82a3386d280f5d6f7e50e641df152f7109ed5456b412b1da197fb71123acd3a729901d1a71874700133107ec50,
     0x7f519eada7bda81bd826dba647910f8c4b9346ed8ccdc64e4b1abd11756dce1d2074aa263b88805ced70355a33b471ee) ]

/-- N·G is the identity, or, where a prime N with that could still be a proper divisor of #E, the points are counted. By Hasse's
bound #E is at most (√P + 1)², so that below twice N it is N (PRESUMED, a published theorem; log entry 5). -/
def orderIsN (c : Cfg) : Bool :=
  if c.p + 1 < 2 * c.n ∧ 4 * c.p < (2 * c.n - (c.p + 1)) ^ 2 then
    (affineMultiple c.p c.a (c.n.log2 + 1) c.n ⟨c.gx, c.gy, false⟩).inf
  else c.n == countPoints c

/-- The configuration is sound: P and N are prime and N = #E (D10). It decides where inverses and square roots are the exact
values of R117 and R119, and where they are `any value` (D10, U3). -/
def configSound (c : Cfg) : Bool :=
  publishedCurves.contains (c.p, c.n, c.a, c.b) || (isPrime c.p && isPrime c.n && orderIsN c)

end Sys2Proof.Machine
end

