-- ==== Sys2Proof/Machine/Operands.lean ====
section
/-! DEFINITION. The operand forms: the register files (R22 to R26), the configuration slots (R27) and the quantities
derived from them (R7), the choice bits (R29), and byte strings in BUF (R10, R11, R50). -/

namespace Sys2Proof.Machine

/-! ### Element registers (R11, R22, R23, R110) -/

/-- The domain of an element command: its M bit (R80, R110). -/
inductive Dom where
  | field
  | scalar
deriving DecidableEq, Repr

/-- Mod: cfg.P or cfg.N (R110). -/
def Cfg.modulus (c : Cfg) : Dom → Nat
  | .field => c.p
  | .scalar => c.n

/-- E[i]: F[i] or S[i] (R11). -/
def State.elem (s : State) : Dom → EReg → Nat
  | .field, i => s.fRegs[i]
  | .scalar, i => s.sRegs[i]

/-- E[i] <- v (R11). -/
def State.setElem (s : State) : Dom → EReg → Nat → State
  | .field, i, v => { s with fRegs := s.fRegs.set i v }
  | .scalar, i, v => { s with sRegs := s.sRegs.set i v }

/-- Mod for the configured curve (R110). -/
def State.modulus (s : State) (d : Dom) : Nat := s.cfg.modulus d

/-! ### Point registers (R25, R26) -/

/-- Q[i]. -/
def State.proj (s : State) (i : PReg) : Proj := s.qRegs[i]

/-- Q[i] <- q. -/
def State.setProj (s : State) (i : PReg) (q : Proj) : State := { s with qRegs := s.qRegs.set i q }

/-- A[i]. -/
def State.affine (s : State) (i : PReg) : Affine := s.aRegs[i]

/-- A[i] <- a. -/
def State.setAffine (s : State) (i : PReg) (a : Affine) : State := { s with aRegs := s.aRegs.set i a }

/-! ### Configuration slots and derived quantities (R7, R27) -/

/-- CFG[slot] <- v (R260). -/
def Cfg.set (c : Cfg) (slot : Slot) (v : Nat) : Cfg :=
  match slot with
  | .L => { c with l := v }
  | .FLAGS => { c with flags := v }
  | .P => { c with p := v }
  | .N => { c with n := v }
  | .A => { c with a := v }
  | .B => { c with b := v }
  | .GX => { c with gx := v }
  | .GY => { c with gy := v }
  | .R2P => { c with r2p := v }
  | .R2N => { c with r2n := v }
  | .PINV => { c with pinv := v }
  | .NINV => { c with ninv := v }

/-- CFG[slot] (R27). -/
def Cfg.get (c : Cfg) (slot : Slot) : Nat :=
  match slot with
  | .L => c.l
  | .FLAGS => c.flags
  | .P => c.p
  | .N => c.n
  | .A => c.a
  | .B => c.b
  | .GX => c.gx
  | .GY => c.gy
  | .R2P => c.r2p
  | .R2N => c.r2n
  | .PINV => c.pinv
  | .NINV => c.ninv

/-- The slots of a configuration in order, CFG[0..11] (R27). -/
def Cfg.slots (c : Cfg) : List Nat :=
  [c.l, c.flags, c.p, c.n, c.a, c.b, c.gx, c.gy, c.r2p, c.r2n, c.pinv, c.ninv]

/-- EB = ceil(L / 8) (R7). -/
def Cfg.eb (c : Cfg) : Nat := (c.l + 7) / 8

/-- NIB = ceil(L / 4) (R7). -/
def Cfg.nib (c : Cfg) : Nat := (c.l + 3) / 4

/-- LIMBS = ceil(L / W) (R7). -/
def Cfg.limbs (c : Cfg) (p : Params) : Nat := (c.l + p.limb.bits - 1) / p.limb.bits

/-- R = 2^(W·LIMBS) (R7). -/
def Cfg.radix (c : Cfg) (p : Params) : Nat := 2 ^ (p.limb.bits * c.limbs p)

/-- LenRange(slot): the least and the greatest legal LEN of CFGW (R260). -/
def slotLenRange (p : Params) : Slot → Nat × Nat
  | .L => (1, 2)
  | .FLAGS => (1, 1)
  | .P => (1, Config.lMaxB)
  | .N => (1, Config.lMaxB)
  | .A => (1, Config.lMaxB)
  | .B => (1, Config.lMaxB)
  | .GX => (1, Config.lMaxB)
  | .GY => (1, Config.lMaxB)
  | .R2P => (1, Config.lMaxB)
  | .R2N => (1, Config.lMaxB)
  | .PINV => (1, p.limb.bits / 8)
  | .NINV => (1, p.limb.bits / 8)

/-! ### Byte strings (R10) -/

/-- BE(s): the integer that a byte string denotes, big-endian (R10). -/
def beValue (s : List Byte) : Nat := s.foldl (fun acc b => acc * 256 + b.toNat) 0

/-- BE_n(v): the n-byte big-endian string of v (R10). -/
def beBytes : Nat → Nat → List Byte
  | 0, _ => []
  | n + 1, v => beBytes n (v / 256) ++ [BitVec.ofNat 8 v]

/-! ### BUF (R30, R50) -/

/-- What an offset that the memory does not list reads as: the byte after reset (R34). -/
def Memory.unlisted : Byte := 0

/-- BUF[off]. -/
def Memory.read (m : Memory) (off : Nat) : Byte :=
  match m.find? (fun c => c.1 == off) with
  | some c => c.2
  | none => Memory.unlisted

/-- BUF[off] <- v, keeping the canonical form. -/
def Memory.write (m : Memory) (off : Nat) (v : Byte) : Memory :=
  match m with
  | [] => if v = Memory.unlisted then [] else [(off, v)]
  | c :: rest =>
    if off < c.1 then (if v = Memory.unlisted then c :: rest else (off, v) :: c :: rest)
    else if off = c.1 then (if v = Memory.unlisted then rest else (off, v) :: rest)
    else c :: Memory.write rest off v

/-- The bytes of s to consecutive offsets from off. -/
def Memory.writeBytes (m : Memory) (off : Nat) : List Byte → Memory
  | [] => m
  | v :: rest => Memory.writeBytes (m.write off v) (off + 1) rest

/-- The n bytes BUF[off .. off+n). -/
def Memory.readBytes (m : Memory) (off n : Nat) : List Byte := (List.range n).map (fun j => m.read (off + j))

/-- The canonical form: offsets inside BUF and strictly rising, and no byte equal to what an unlisted offset
reads as. -/
abbrev Memory.wf (m : Memory) : Prop :=
  m.Pairwise (fun c d => c.1 < d.1) ∧ ∀ c ∈ m, c.1 < Config.bufSize ∧ c.2 ≠ Memory.unlisted

/-- MemRead(off, n) (R11), which no command asks for outside BUF (R50). -/
def State.memRead (s : State) (off n : Nat) : Except Fault (List Byte) :=
  if off + n ≤ Config.bufSize then .ok (s.buf.readBytes off n) else .error (.outsideBuffer off n)

/-- MemWrite(off, |bytes|, bytes) (R11), which no command asks for outside BUF (R50). -/
def State.memWrite (s : State) (off : Nat) (bytes : List Byte) : Except Fault State :=
  if off + bytes.length ≤ Config.bufSize then .ok { s with buf := s.buf.writeBytes off bytes }
  else .error (.outsideBuffer off bytes.length)

end Sys2Proof.Machine
end

