-- ==== Sys2Proof/Machine/Flags.lean ====
section
/-! DEFINITION. The core's condition state: the choice bits K, which are its only flags (R29, R111), and the STATUS
word that shows them to the host (R56), with the interrupt output (R290). -/

namespace Sys2Proof.Machine

/-- K[i] (R11). -/
def State.choice (s : State) (i : KReg) : Bool := s.kBits[i]

/-- K[i] <- b (R11). -/
def State.setChoice (s : State) (i : KReg) (b : Bool) : State := { s with kBits := s.kBits.set i b }

/-- A Boolean as a bit of a register. -/
def bit (b : Bool) : Nat := if b then 1 else 0

/-- The number of an error code (R280). -/
def ErrCode.num : ErrCode → Nat
  | .none => 0
  | .illegal => 1
  | .nocfg => 2
  | .locked => 3
  | .cfgcheck => 4
  | .len => 5
  | .tag => 6
  | .bounds => 7
  | .busy => 8

/-- The K field of STATUS: bit i is K[i] (R56). -/
def State.kField (s : State) : Nat :=
  bit s.kBits[0] + 2 * bit s.kBits[1] + 4 * bit s.kBits[2] + 8 * bit s.kBits[3]

/-- STATUS as the host reads it (R56). -/
def State.status (s : State) : Word :=
  BitVec.ofNat 32
    (bit s.busy + 2 * bit s.done + 4 * bit s.err + 8 * bit s.locked + 16 * s.errCode.num + 256 * s.kField)

/-- IRQ = CTRL.IE AND (STATUS.DONE OR STATUS.ERR) (R290). -/
def State.irq (s : State) : Bool := s.ie && (s.done || s.err)

/-- SISHIGH's test: v > (N - 1) / 2 (R125). -/
def isHigh (n v : Nat) : Bool := decide (v > (n - 1) / 2)

/-- FISODD's test: the parity of the canonical value (R123). -/
def isOdd (v : Nat) : Bool := v % 2 == 1

end Sys2Proof.Machine
end

