-- ==== Sys2Proof/Machine/Ops.lean ====
section
/-! DEFINITION. The operations that instructions share: the free values (R117, R119), the checks of R283, the error
effects of R282 (the core's only trap entry) and the return from an error (R287), completion (R281), and the resets
(R320). -/

namespace Sys2Proof.Machine

/-! ### Inversion and square root with their `any value` cases -/

/-- A result modulo m with its validity. Under a sound configuration it is `exact`, where none is masked-invalid and gives 0
(D14). Under every other one the value and the validity are drawn (D10, U3; log entry 8), and the value is masked by the validity
in the same way (log entry 9). `exact` is computed only where it is used. -/
def State.exactOrDrawn (s : State) (m : Nat) (exact : Unit → Option Nat) : (Nat × Bool) × State :=
  if configSound s.cfg then
    match exact () with
    | some v => ((v, true), s)
    | none => ((0, false), s)
  else
    let valid := Config.freeValidity s.draws
    ((if valid then Config.freeNat s.draws % m else 0, valid), { s with draws := s.draws + 1 })

/-- inv_M(x) with its validity (R11, R117, U3): the inverse, and 0 for x = 0. -/
def State.inverse (s : State) (m x : Nat) : (Nat × Bool) × State := s.exactOrDrawn m fun _ => invMod m x

/-- inv_P(Z) of R205: 0 for Z = 0, and the inverse wherever there is one, under every configuration, so that PTOAFF of a curve
triple gives a curve point (R26); `any value` of [0, P) where a nonzero Z has none (R117, U3 does not list PTOAFF; log entry
8). -/
def State.inverseOfZ (s : State) (z : Nat) : Nat × State :=
  if z = 0 then (0, s)
  else
    match invMod s.cfg.p z with
    | some v => (v, s)
    | none => (Config.freeNat s.draws % s.cfg.p, { s with draws := s.draws + 1 })

/-- SQRT_M(α): the root and its validity, the root masked to 0 where it is invalid (R119, R243, U3). -/
def State.squareRoot (s : State) (m α : Nat) : (Nat × Bool) × State := s.exactOrDrawn m fun _ => sqrtMod m α

/-! ### Errors and completion -/

/-- ErrorEffects(w, c) (R282): ERR, ERRCODE, ERRCMD and DONE, and nothing else. -/
def State.errorEffects (s : State) (w : Word) (c : ErrCode) : State :=
  { s with err := true, errCode := c, errCmd := w, done := true }

/-- The completion of a word w that fails a check (R281): its error effects. Errors do not nest (R288): where a BUSY error raised
during the command stands, ERRCODE and ERRCMD keep describing it, the first error since ERR was cleared (R31, R56, R288), and DONE
alone is set. R281 and R282 assign them there too, which R288 excludes (DEDUCED, log entry 6). -/
def State.raiseError (s : State) (w : Word) (c : ErrCode) : State :=
  if s.err then { s with done := true } else s.errorEffects w c

/-- BUSY <- 0; INFLIGHT absent (R281). -/
def State.retire (s : State) : State := { s with inflight := none }

/-- The end of a command that passed its checks: DONE <- 1, BUSY <- 0, INFLIGHT absent (R281). -/
def State.complete (s : State) : State := { s with done := true, inflight := none }

/-- RaiseBusy(v) (R281). -/
def State.raiseBusy (s : State) (v : Word) : State :=
  { s with err := true, errCode := .busy, errCmd := v }

/-- The host's return from an error: ERR, ERRCODE and ERRCMD are cleared together (R287). -/
def State.clearError (s : State) : State := { s with err := false, errCode := .none, errCmd := 0 }

/-- Both resets (R320): every piece of the spec's state at its reset value. The instance is the same, what is
still to reach the core is not the core's, and the draws go on. -/
def State.resetCore (s : State) : State :=
  { State.resetOf s.params with events := s.events, draws := s.draws }

/-! ### The checks of CFGLOCK (R261) -/

/-- P or N: odd, with exactly L bits (checks 3 and 4). -/
def legalModulus (l m : Nat) : Bool := m % 2 == 1 && decide (2 ^ (l - 1) ≤ m) && decide (m < 2 ^ l)

/-- R2P or R2N (check 9). -/
def legalR2 (radix m r2 : Nat) : Bool := r2 == radix * radix % m

/-- PINV or NINV (checks 10 and 11). -/
def legalInverse (w m inv : Nat) : Bool := decide (inv < 2 ^ w) && (m * inv + 1) % 2 ^ w == 0

/-- All the checks of CFGLOCK, in the order of R261. A slot that was never written holds 0 and is checked as that value: R260 says
that CFGLOCK then fails, but R261's checks pass with a legal 0 in FLAGS, A, B, GX or GY, and no state tells the two apart (DEDUCED,
log entry 18). -/
def cfgChecks (prm : Params) (c : Cfg) : Bool :=
  (decide (3 ≤ c.l) && decide (c.l ≤ Config.lMax))
  && decide (c.flags ≤ 1)
  && legalModulus c.l c.p
  && legalModulus c.l c.n
  && (decide (c.a < c.p) && decide (c.b < c.p) && decide (c.gx < c.p) && decide (c.gy < c.p))
  && (c.flags == 0 || c.a == c.p - 3)
  && (4 * (c.a * c.a * c.a) + 27 * (c.b * c.b)) % c.p != 0
  && onCurve c c.gx c.gy
  && (legalR2 (c.radix prm) c.p c.r2p && legalR2 (c.radix prm) c.n c.r2n)
  && legalInverse prm.limb.bits c.p c.pinv
  && legalInverse prm.limb.bits c.n c.ninv

/-! ### The check order of R283 -/

/-- What the checks of R283 ask of a command. -/
inductive Shape where
  /-- NOP and the KOP group: they run whether or not the configuration is locked. -/
  | always
  /-- Element, affine and projective commands of format R: LOCKED = 1. -/
  | register
  /-- FDEC, SDEC, FENC, SENC: LEN = EB. -/
  | element (off len : Nat)
  /-- SRED, SREDNZ: 1 ≤ LEN ≤ 2·EB. -/
  | wide (off len : Nat)
  /-- PENC: the extent is the form's longest encoding. -/
  | penc (off : Nat) (form : Form)
  /-- PDEC: the tag and the length it asks for. -/
  | pdec (off len : Nat)
  /-- CFGW. -/
  | cfgw (slot : Slot) (off len : Nat)
  /-- CFGLOCK. -/
  | cfglock
deriving DecidableEq, Repr

/-- The shape of each command (R283, R285). -/
def shapeOf : Instr → Shape
  | .nop => .always
  | .fadd _ _ _ => .register
  | .sadd _ _ _ => .register
  | .fsub _ _ _ => .register
  | .ssub _ _ _ => .register
  | .fneg _ _ => .register
  | .sneg _ _ => .register
  | .fmul _ _ _ => .register
  | .smul _ _ _ => .register
  | .fsqr _ _ => .register
  | .ssqr _ _ => .register
  | .finv _ _ _ => .register
  | .sinv _ _ _ => .register
  | .fsqrt _ _ _ => .register
  | .ssqrt _ _ _ => .register
  | .fnorm _ _ => .register
  | .snorm _ _ => .register
  | .fsel _ _ _ _ => .register
  | .ssel _ _ _ _ => .register
  | .fisz _ _ => .register
  | .sisz _ _ => .register
  | .fisodd _ _ => .register
  | .sisodd _ _ => .register
  | .feq _ _ _ => .register
  | .seq _ _ _ => .register
  | .sishigh _ _ => .register
  | .fldc _ _ => .register
  | .sldc _ _ => .register
  | .fdec _ _ off len => .element off len
  | .sdec _ _ off len => .element off len
  | .fenc _ off len => .element off len
  | .senc _ off len => .element off len
  | .sred _ off len => .wide off len
  | .srednz _ off len => .wide off len
  | .padd _ _ _ => .register
  | .paddm _ _ _ => .register
  | .pdbl _ _ => .register
  | .pneg _ _ => .register
  | .pmul _ _ _ => .register
  | .ptoaff _ _ => .register
  | .pfroma _ _ => .register
  | .psel _ _ _ _ => .register
  | .pisid _ _ => .register
  | .peq _ _ _ => .register
  | .pldi _ => .register
  | .aldi _ => .register
  | .aldg _ => .register
  | .aneg _ _ => .register
  | .aonc _ _ => .register
  | .aisid _ _ => .register
  | .asel _ _ _ _ => .register
  | .aget _ _ _ => .register
  | .aset _ _ _ _ => .register
  | .penc _ _ off form => .penc off form
  | .pdec _ _ off len => .pdec off len
  | .cfgw slot off len => .cfgw slot off len
  | .cfglock => .cfglock
  | .kmov _ _ => .always
  | .knot _ _ => .always
  | .kand _ _ _ => .always
  | .kor _ _ _ => .always
  | .kxor _ _ _ => .always
  | .kclr _ => .always
  | .kset _ => .always

/-- The longest encoding of a SEC1 form (R240, R241). -/
def formExtent (eb : Nat) : Form → Nat
  | .compressed => 1 + eb
  | .uncompressed => 1 + 2 * eb
  | .compact => 1 + eb

/-- The length of the encoding that a tag byte announces, or none where the tag is no tag of this core (R240,
R242). -/
def tagLength (eb : Nat) (t : Byte) : Option Nat :=
  if t = 0x00 then some 1
  else if t = 0x02 ∨ t = 0x03 ∨ t = 0x05 then some (1 + eb)
  else if t = 0x04 then some (1 + 2 * eb)
  else none

/-- Check 5 of R283: the extent passes the end of BUF. -/
def outside (off ext : Nat) : Bool := decide (Config.bufSize < off + ext)

/-- Checks 7 and 8 of R283: the tag, then the length it asks for. -/
def tagChecks (s : State) (off len : Nat) : Option ErrCode :=
  match tagLength s.cfg.eb (s.buf.read off) with
  | none => some .tag
  | some n => if len = n then none else some .len

/-- PDEC reads its tag byte: it passes the checks 4a, 5 and 6 of R283. -/
def tagRead (s : State) (off len : Nat) : Bool := s.locked && !outside off len && len != 0

/-- Checks 4a to 9 of R283 in order: the code of the first that fails. -/
def checks (s : State) : Shape → Option ErrCode
  | .always => none
  | .register => if s.locked then none else some .nocfg
  | .element off len =>
    if !s.locked then some .nocfg
    else if outside off len then some .bounds
    else if len = s.cfg.eb then none else some .len
  | .wide off len =>
    if !s.locked then some .nocfg
    else if outside off len then some .bounds
    else if 1 ≤ len ∧ len ≤ 2 * s.cfg.eb then none else some .len
  | .penc off form =>
    if !s.locked then some .nocfg
    else if outside off (formExtent s.cfg.eb form) then some .bounds else none
  | .pdec off len =>
    if !s.locked then some .nocfg
    else if outside off len then some .bounds
    else if len = 0 then some .len
    else tagChecks s off len
  | .cfgw slot off len =>
    if s.locked then some .locked
    else if outside off len then some .bounds
    else if (slotLenRange s.params slot).1 ≤ len ∧ len ≤ (slotLenRange s.params slot).2 then none else some .len
  | .cfglock =>
    if s.locked then some .locked
    else if cfgChecks s.params s.cfg then none else some .cfgcheck

/-- A command at its completion (R281): the error effects if a check fails, its rule and DONE <- 1 if none
does; then BUSY <- 0. Operands are read from `s`, and the rule's writes become visible together (R12, R65). -/
def command (i : Instr) (s : State) (rule : State → Except Fault State) : Result :=
  match checks s (shapeOf i) with
  | some c => .next (s.raiseError (encode i) c).retire
  | none =>
    match rule s with
    | .ok t => .next t.complete
    | .error f => .fault f

end Sys2Proof.Machine
end

