-- ==== Sys2Proof/Machine/Bus.lean ====
section
/-! DEFINITION. The host register window (20_memory.md): reads, writes, the submission of a command (R281), and the
latency it gets (R340). -/

namespace Sys2Proof.Machine

/-! ### Latency (R340) -/

/-- The public data a command's latency may depend on besides its word and the configuration: PDEC's tag byte where it is
read, and the value CFGW stores where it passes its checks (R340). Any other byte of BUF may be secret. -/
def publicData (s : State) : Shape → Nat
  | .always => 0
  | .register => 0
  | .element _ _ => 0
  | .wide _ _ => 0
  | .penc _ _ => 0
  | .pdec off len => if tagRead s off len then (s.buf.read off).toNat else 0
  | .cfgw slot off len =>
    if (checks s (.cfgw slot off len)).isSome then 0 else beValue (s.buf.readBytes off len)
  | .cfglock => 0

/-- The configuration a command's latency may depend on: FLAGS.A_EQ_M3 only for CFGW and CFGLOCK (R340). -/
def publicSlots (c : Cfg) : Shape → List Nat
  | .always => { c with flags := 0 }.slots
  | .register => { c with flags := 0 }.slots
  | .element _ _ => { c with flags := 0 }.slots
  | .wide _ _ => { c with flags := 0 }.slots
  | .penc _ _ => { c with flags := 0 }.slots
  | .pdec _ _ => { c with flags := 0 }.slots
  | .cfgw _ _ _ => c.slots
  | .cfglock => c.slots

/-- What the latency of the command word w depends on, in the state that accepts it (R340). -/
def latencyKey (s : State) (w : Word) : Config.LatencyKey :=
  match decode w with
  | .instr i =>
    ⟨w, publicSlots s.cfg (shapeOf i), publicData s (shapeOf i), ((checks s (shapeOf i)).getD .none).num⟩
  | .illegal _ => ⟨w, publicSlots s.cfg .always, 0, ErrCode.illegal.num⟩

/-! ### Writes -/

/-- A host write of w to CMD (R281): ignored while ERR = 1, dropped with a BUSY error while BUSY = 1, and accepted
otherwise. -/
def State.submit (s : State) (w : Word) : State :=
  if s.err then s
  else if s.busy then s.raiseBusy w
  else { s with inflight := some ⟨w, Config.lat (latencyKey s w)⟩ }

/-- The bytes of a window word in lane order, the lowest offset first (R61). -/
def laneBytes (v : Word) : List Byte :=
  [v.extractLsb' 0 8, v.extractLsb' 8 8, v.extractLsb' 16 8, v.extractLsb' 24 8]

/-- The window word whose lowest byte is BUF[off] (R61). -/
def laneWord (m : Memory) (off : Nat) : Word :=
  m.read (off + 3) ++ m.read (off + 2) ++ m.read (off + 1) ++ m.read off

/-- A host write of a BUF word (R61): dropped while BUSY = 1, with a BUSY error if ERR = 0 (R62, R281). -/
def State.writeBuffer (s : State) (off : Nat) (v : Word) : State :=
  if s.busy then (if s.err then s else s.raiseBusy 0)
  else { s with buf := s.buf.writeBytes off (laneBytes v) }

/-- A host write of STATUS: writing 1 clears DONE (bit 1), and ERR with ERRCODE and ERRCMD (bit 2) (R56, R287). -/
def State.writeStatus (s : State) (v : Word) : State :=
  let t := if v.getLsbD 1 then { s with done := false } else s
  if v.getLsbD 2 then t.clearError else t

/-- A host write of CTRL: bit 1 (SRST) resets the core, and otherwise bit 0 is IE (R57, R320). -/
def State.writeCtrl (s : State) (v : Word) : State :=
  if v.getLsbD 1 then s.resetCore else { s with ie := v.getLsbD 0 }

/-- A host write in the window, at an offset from BASE (R53). -/
def State.writeWindow (s : State) (off : Nat) (v : Word) : State :=
  if off = 0x008 then s.writeCtrl v
  else if off = 0x00C then s.writeStatus v
  else if off = 0x010 then s.submit v
  else if 0x100 ≤ off then s.writeBuffer (off - 0x100) v
  else s

/-! ### Reads -/

/-- ID, the ASCII bytes "ECC1" (R54). -/
def idWord : Word := 0x45434331

/-- PARAM: W in bits 7:0 and LMAX in bits 17:8 (R55). -/
def paramWord (p : Params) : Word := BitVec.ofNat 32 (p.limb.bits + 256 * Config.lMax)

/-- A host read of a BUF word: `any value` while BUSY = 1 (R62). -/
def State.readBuffer (s : State) (off : Nat) : Word × State :=
  if s.busy then (Config.freeWord s.draws, { s with draws := s.draws + 1 })
  else (laneWord s.buf off, s)

/-- A host read in the window, at an offset from BASE (R53). -/
def State.readWindow (s : State) (off : Nat) : Word × State :=
  if off = 0x000 then (idWord, s)
  else if off = 0x004 then (paramWord s.params, s)
  else if off = 0x008 then (BitVec.ofNat 32 (bit s.ie), s)
  else if off = 0x00C then (s.status, s)
  else if off = 0x014 then (s.errCmd, s)
  else if off = 0x018 then (s.resLen.zeroExtend 32, s)
  else if 0x100 ≤ off then s.readBuffer (off - 0x100)
  else (0, s)

/-! ### Host accesses -/

/-- The address lies in the core's window (R51). -/
def State.inWindow (s : State) (addr : Nat) : Bool :=
  decide (s.params.base ≤ addr) && decide (addr < s.params.base + Config.windowSize)

/-- The core decodes only naturally aligned 32-bit accesses (R52). -/
def BusAccess.decoded (a : BusAccess) : Bool := a.width == 32 && a.addr % 4 == 0

/-- The core's answer to a read of the window. -/
def State.answerRead (s : State) (off : Nat) : State :=
  let (v, t) := s.readWindow off
  { t with resp := some (.data v) }

/-- A host access, as one atomic step (R64). One that is not decoded gets a bus error and has no other effect (R52);
one outside the window does not reach this core (R72). -/
def State.access (s : State) (a : BusAccess) : State :=
  if !s.inWindow a.addr then { s with resp := none }
  else if !a.decoded then { s with resp := some .busError }
  else
    match a.kind with
    | .read => s.answerRead (a.addr - s.params.base)
    | .fetch => s.answerRead (a.addr - s.params.base)
    | .write v => { s.writeWindow (a.addr - s.params.base) v with resp := some .ack }

end Sys2Proof.Machine
end

