-- ==== Sys2Proof/Machine/Affine.lean ====
section
/-! DEFINITION. The affine point commands (41_affine.md). -/

namespace Sys2Proof.Machine

/-- The affine value of ANEG (R173). -/
def Affine.neg (p : Nat) (a : Affine) : Affine := ⟨a.x, negMod p a.y, a.inf⟩

/-- The coordinate AGET reads (R177). -/
def Affine.coord (a : Affine) : Coord → Nat
  | .x => a.x
  | .y => a.y

/-- The affine value a validity bit leaves: the identity sentinel where it is 0 (R178, R242, D14). -/
def maskPoint (ok : Bool) (a : Affine) : Affine := if ok then a else Affine.identity

/-- ASET (R178). -/
def State.buildPoint (s : State) (rd : PReg) (kd : KReg) (x y : Nat) : State :=
  let ok := onCurve s.cfg x y
  (s.setAffine rd (maskPoint ok ⟨x, y, false⟩)).setChoice kd ok

/-- ALDI: load the affine identity (R171). -/
def execAldi (rd : PReg) (s : State) : Result :=
  command (.aldi rd) s fun s => .ok (s.setAffine rd Affine.identity)

/-- ALDG: load the generator (R172). -/
def execAldg (rd : PReg) (s : State) : Result :=
  command (.aldg rd) s fun s => .ok (s.setAffine rd ⟨s.cfg.gx, s.cfg.gy, false⟩)

/-- ANEG: affine negation (R173). -/
def execAneg (rd ra : PReg) (s : State) : Result :=
  command (.aneg rd ra) s fun s => .ok (s.setAffine rd ((s.affine ra).neg s.cfg.p))

/-- AONC: on-curve predicate (R174). -/
def execAonc (kd : KReg) (ra : PReg) (s : State) : Result :=
  command (.aonc kd ra) s fun s =>
    .ok (s.setChoice kd ((s.affine ra).inf || onCurve s.cfg (s.affine ra).x (s.affine ra).y))

/-- AISID: identity predicate (R175). -/
def execAisid (kd : KReg) (ra : PReg) (s : State) : Result :=
  command (.aisid kd ra) s fun s => .ok (s.setChoice kd (s.affine ra).inf)

/-- ASEL: selection of affine points (R176). -/
def execAsel (rd ra rb : PReg) (ks : KReg) (s : State) : Result :=
  command (.asel rd ra rb ks) s fun s =>
    .ok (s.setAffine rd (if s.choice ks then s.affine rb else s.affine ra))

/-- AGET: one affine coordinate into F (R177). -/
def execAget (rd : EReg) (ra : PReg) (c : Coord) (s : State) : Result :=
  command (.aget rd ra c) s fun s => .ok (s.setElem .field rd ((s.affine ra).coord c))

/-- ASET: an affine point from two field registers, with validation (R178). -/
def execAset (rd : PReg) (kd : KReg) (ra rb : EReg) (s : State) : Result :=
  command (.aset rd kd ra rb) s fun s =>
    .ok (s.buildPoint rd kd (s.elem .field ra) (s.elem .field rb))

end Sys2Proof.Machine
end

