-- ==== Sys2Proof/Machine/Codec.lean ====
section
/-! DEFINITION. The SEC1 point codec (43_codec.md): PENC, PDEC, and the decompress and decompact functions that only
PDEC uses. -/

namespace Sys2Proof.Machine

/-- The encoding of an affine point in a form (R240, R241). -/
def pointBytes (eb : Nat) (form : Form) (a : Affine) : List Byte :=
  if a.inf then [0x00]
  else
    match form with
    | .compressed => BitVec.ofNat 8 (0x02 + a.y % 2) :: beBytes eb a.x
    | .uncompressed => 0x04 :: (beBytes eb a.x ++ beBytes eb a.y)
    | .compact => 0x05 :: beBytes eb a.x

/-- PENC's K bit: 0 only for the compact form of a point whose y is the larger root (R241). -/
def pointBytesOk (p : Nat) (form : Form) (a : Affine) : Bool :=
  match form with
  | .compressed => true
  | .uncompressed => true
  | .compact => a.inf || decide (a.y ≤ p - a.y)

/-- PENC (R241). -/
def State.encodePoint (s : State) (rg : PReg) (kd : KReg) (off : Nat) (form : Form) : Except Fault State := do
  let bytes := pointBytes s.cfg.eb form (s.affine rg)
  let t ← s.memWrite off bytes
  return { t with resLen := BitVec.ofNat 8 bytes.length }.setChoice kd (pointBytesOk s.cfg.p form (s.affine rg))

/-- The y that Decompress takes: β or -β by parity (R243). -/
def rootOfParity (p β par : Nat) : Nat := if β % 2 = par then β else negMod p β

/-- The y that Decompact takes: the smaller of β and -β (R243). -/
def smallerRoot (p β : Nat) : Nat := min β (negMod p β)

/-- What Decompress and Decompact share: the point with the given x, where y is chosen from the root by `pick`, with
its validity (R243). Under an unsound configuration the root and its validity are drawn, so that the pair may lie off the curve,
which U3 allows and R26 does not (log entry 8). -/
def State.liftX (s : State) (x : Nat) (pick : Nat → Nat) : (Affine × Bool) × State :=
  let xv := decide (x < s.cfg.p)
  let x := if xv then x else 0
  let ((β, sv), t) := s.squareRoot s.cfg.p (curveRhs s.cfg.p s.cfg.a s.cfg.b x)
  ((⟨x, pick β, false⟩, xv && sv), t)

/-- Decompress (R243). -/
def State.decompress (s : State) (x par : Nat) : (Affine × Bool) × State :=
  s.liftX x fun β => rootOfParity s.cfg.p β par

/-- Decompact (R243). -/
def State.decompact (s : State) (x : Nat) : (Affine × Bool) × State :=
  s.liftX x fun β => smallerRoot s.cfg.p β

/-- The uncompressed case of PDEC (R242). -/
def State.checkedPoint (s : State) (x y : Nat) : Affine × Bool :=
  (⟨x, y, false⟩, decide (x < s.cfg.p) && decide (y < s.cfg.p) && onCurve s.cfg x y)

/-- The point that the bytes at OFF encode, with its validity, by their tag (R242). -/
def State.readPoint (s : State) (off : Nat) : Except Fault ((Affine × Bool) × State) := do
  let t := s.buf.read off
  let eb := s.cfg.eb
  if t = 0x00 then return ((Affine.identity, true), s)
  else if t = 0x04 then
    let xs ← s.memRead (off + 1) eb
    let ys ← s.memRead (off + 1 + eb) eb
    return (s.checkedPoint (beValue xs) (beValue ys), s)
  else
    let xs ← s.memRead (off + 1) eb
    if t = 0x05 then return s.decompact (beValue xs)
    else return s.decompress (beValue xs) (t.toNat - 0x02)

/-- PDEC after its checks (R242). -/
def State.decodePoint (s : State) (rg : PReg) (kd : KReg) (off : Nat) : Except Fault State := do
  let ((pt, ok), t) ← s.readPoint off
  return (t.setAffine rg (maskPoint ok pt)).setChoice kd ok

/-- PENC: encode an affine point (R241). -/
def execPenc (rg : PReg) (kd : KReg) (off : Nat) (form : Form) (s : State) : Result :=
  command (.penc rg kd off form) s fun s => s.encodePoint rg kd off form

/-- PDEC: decode and validate an affine point (R242). -/
def execPdec (rg : PReg) (kd : KReg) (off len : Nat) (s : State) : Result :=
  command (.pdec rg kd off len) s fun s => s.decodePoint rg kd off

end Sys2Proof.Machine
end

