-- ==== Sys2Proof/Machine/Control.lean ====
section
/-! DEFINITION. The configuration commands, NOP and the choice-bit group (44_control.md). -/

namespace Sys2Proof.Machine

/-- CFGW after its checks: CFG[slot] <- BE(MemRead(OFF, LEN)) (R260). -/
def State.writeSlot (s : State) (slot : Slot) (off len : Nat) : Except Fault State := do
  let bytes ← s.memRead off len
  return { s with cfg := s.cfg.set slot (beValue bytes) }

/-- NOP: nothing but completion (R262). -/
def execNop (s : State) : Result :=
  command .nop s fun s => .ok s

/-- CFGW: write one configuration slot (R260). -/
def execCfgw (slot : Slot) (off len : Nat) (s : State) : Result :=
  command (.cfgw slot off len) s fun s => s.writeSlot slot off len

/-- CFGLOCK: LOCKED <- 1 where the checks of R261 pass. -/
def execCfglock (s : State) : Result :=
  command .cfglock s fun s => .ok { s with locked := true }

/-- KMOV (R263). -/
def execKmov (kd ka : KReg) (s : State) : Result :=
  command (.kmov kd ka) s fun s => .ok (s.setChoice kd (s.choice ka))

/-- KNOT (R264). -/
def execKnot (kd ka : KReg) (s : State) : Result :=
  command (.knot kd ka) s fun s => .ok (s.setChoice kd (!s.choice ka))

/-- KAND (R265). -/
def execKand (kd ka kb : KReg) (s : State) : Result :=
  command (.kand kd ka kb) s fun s => .ok (s.setChoice kd (s.choice ka && s.choice kb))

/-- KOR (R266). -/
def execKor (kd ka kb : KReg) (s : State) : Result :=
  command (.kor kd ka kb) s fun s => .ok (s.setChoice kd (s.choice ka || s.choice kb))

/-- KXOR (R267). -/
def execKxor (kd ka kb : KReg) (s : State) : Result :=
  command (.kxor kd ka kb) s fun s => .ok (s.setChoice kd (s.choice ka ^^ s.choice kb))

/-- KCLR (R268). -/
def execKclr (kd : KReg) (s : State) : Result :=
  command (.kclr kd) s fun s => .ok (s.setChoice kd false)

/-- KSET (R269). -/
def execKset (kd : KReg) (s : State) : Result :=
  command (.kset kd) s fun s => .ok (s.setChoice kd true)

end Sys2Proof.Machine
end

