-- ==== Sys2Proof/Machine/Element.lean ====
section
/-! DEFINITION. The element commands (40_field_scalar.md): one operation for each rule, over the domain that the M
bit selects (R110), and one meaning for each row of the opcode map over it. -/

namespace Sys2Proof.Machine

/-! ### The operations of R112 to R130 -/

/-- E[RD] <- op(Mod, E[RA], E[RB]) (R112, R113, R115). -/
def State.binary (s : State) (op : Nat → Nat → Nat → Nat) (d : Dom) (rd ra rb : EReg) : State :=
  s.setElem d rd (op (s.modulus d) (s.elem d ra) (s.elem d rb))

/-- E[RD] <- -E[RA] (R114). -/
def State.negate (s : State) (d : Dom) (rd ra : EReg) : State :=
  s.setElem d rd (negMod (s.modulus d) (s.elem d ra))

/-- E[RD] <- E[RA]² (R116). -/
def State.square (s : State) (d : Dom) (rd ra : EReg) : State :=
  s.setElem d rd (mulMod (s.modulus d) (s.elem d ra) (s.elem d ra))

/-- E[RD] and K[KD] <- the inverse of E[RA] and its validity (R117). -/
def State.invert (s : State) (d : Dom) (rd : EReg) (kd : KReg) (ra : EReg) : State :=
  let ((v, valid), t) := s.inverse (s.modulus d) (s.elem d ra)
  (t.setElem d rd v).setChoice kd valid

/-- E[RD] and K[KD] <- the square root of E[RA] and its validity (R119). -/
def State.root (s : State) (d : Dom) (rd : EReg) (kd : KReg) (ra : EReg) : State :=
  let ((β, valid), t) := s.squareRoot (s.modulus d) (s.elem d ra)
  (t.setElem d rd β).setChoice kd valid

/-- E[RD] <- E[RA] (R120). -/
def State.copy (s : State) (d : Dom) (rd ra : EReg) : State := s.setElem d rd (s.elem d ra)

/-- E[RD] <- K[KS] ? E[RB] : E[RA] (R121). -/
def State.select (s : State) (d : Dom) (rd ra rb : EReg) (ks : KReg) : State :=
  s.setElem d rd (if s.choice ks then s.elem d rb else s.elem d ra)

/-- FDEC, SDEC (R127). -/
def State.decodeElem (s : State) (d : Dom) (rg : EReg) (kd : KReg) (off : Nat) : Except Fault State := do
  let bytes ← s.memRead off s.cfg.eb
  let v := beValue bytes
  let valid := decide (v < s.modulus d)
  return (s.setElem d rg (if valid then v else 0)).setChoice kd valid

/-- FENC, SENC (R128). -/
def State.encodeElem (s : State) (d : Dom) (rg : EReg) (off : Nat) : Except Fault State := do
  let t ← s.memWrite off (beBytes s.cfg.eb (s.elem d rg))
  return { t with resLen := BitVec.ofNat 8 s.cfg.eb }

/-- SRED (R129). -/
def State.reduce (s : State) (rg : EReg) (off len : Nat) : Except Fault State := do
  let bytes ← s.memRead off len
  return s.setElem .scalar rg (beValue bytes % s.cfg.n)

/-- SREDNZ (R130). -/
def State.reduceNonzero (s : State) (rg : EReg) (off len : Nat) : Except Fault State := do
  let bytes ← s.memRead off len
  return s.setElem .scalar rg (beValue bytes % (s.cfg.n - 1) + 1)

/-- FLDC's constant (R126). -/
def fieldConst (c : Cfg) : FConst → Nat
  | .zero => 0
  | .one => 1
  | .a => c.a
  | .b => c.b

/-- SLDC's constant (R126). -/
def scalarConst : SConst → Nat
  | .zero => 0
  | .one => 1

/-! ### The meanings -/

/-- FADD: modular addition (R112). -/
def execFadd (rd ra rb : EReg) (s : State) : Result :=
  command (.fadd rd ra rb) s fun s => .ok (s.binary addMod .field rd ra rb)

/-- SADD: modular addition (R112). -/
def execSadd (rd ra rb : EReg) (s : State) : Result :=
  command (.sadd rd ra rb) s fun s => .ok (s.binary addMod .scalar rd ra rb)

/-- FSUB: modular subtraction (R113). -/
def execFsub (rd ra rb : EReg) (s : State) : Result :=
  command (.fsub rd ra rb) s fun s => .ok (s.binary subMod .field rd ra rb)

/-- SSUB: modular subtraction (R113). -/
def execSsub (rd ra rb : EReg) (s : State) : Result :=
  command (.ssub rd ra rb) s fun s => .ok (s.binary subMod .scalar rd ra rb)

/-- FNEG: modular negation (R114). -/
def execFneg (rd ra : EReg) (s : State) : Result :=
  command (.fneg rd ra) s fun s => .ok (s.negate .field rd ra)

/-- SNEG: modular negation (R114). -/
def execSneg (rd ra : EReg) (s : State) : Result :=
  command (.sneg rd ra) s fun s => .ok (s.negate .scalar rd ra)

/-- FMUL: modular multiplication (R115). -/
def execFmul (rd ra rb : EReg) (s : State) : Result :=
  command (.fmul rd ra rb) s fun s => .ok (s.binary mulMod .field rd ra rb)

/-- SMUL: modular multiplication (R115). -/
def execSmul (rd ra rb : EReg) (s : State) : Result :=
  command (.smul rd ra rb) s fun s => .ok (s.binary mulMod .scalar rd ra rb)

/-- FSQR: modular squaring (R116). -/
def execFsqr (rd ra : EReg) (s : State) : Result :=
  command (.fsqr rd ra) s fun s => .ok (s.square .field rd ra)

/-- SSQR: modular squaring (R116). -/
def execSsqr (rd ra : EReg) (s : State) : Result :=
  command (.ssqr rd ra) s fun s => .ok (s.square .scalar rd ra)

/-- FINV: modular inverse, with its validity (R117). -/
def execFinv (rd : EReg) (kd : KReg) (ra : EReg) (s : State) : Result :=
  command (.finv rd kd ra) s fun s => .ok (s.invert .field rd kd ra)

/-- SINV: modular inverse, with its validity (R117). -/
def execSinv (rd : EReg) (kd : KReg) (ra : EReg) (s : State) : Result :=
  command (.sinv rd kd ra) s fun s => .ok (s.invert .scalar rd kd ra)

/-- FSQRT: modular square root, with its validity (R119). -/
def execFsqrt (rd : EReg) (kd : KReg) (ra : EReg) (s : State) : Result :=
  command (.fsqrt rd kd ra) s fun s => .ok (s.root .field rd kd ra)

/-- SSQRT: modular square root, with its validity (R119). -/
def execSsqrt (rd : EReg) (kd : KReg) (ra : EReg) (s : State) : Result :=
  command (.ssqrt rd kd ra) s fun s => .ok (s.root .scalar rd kd ra)

/-- FNORM: canonicalise, which is a copy (R120). -/
def execFnorm (rd ra : EReg) (s : State) : Result :=
  command (.fnorm rd ra) s fun s => .ok (s.copy .field rd ra)

/-- SNORM: canonicalise, which is a copy (R120). -/
def execSnorm (rd ra : EReg) (s : State) : Result :=
  command (.snorm rd ra) s fun s => .ok (s.copy .scalar rd ra)

/-- FSEL: selection by a choice bit (R121). -/
def execFsel (rd ra rb : EReg) (ks : KReg) (s : State) : Result :=
  command (.fsel rd ra rb ks) s fun s => .ok (s.select .field rd ra rb ks)

/-- SSEL: selection by a choice bit (R121). -/
def execSsel (rd ra rb : EReg) (ks : KReg) (s : State) : Result :=
  command (.ssel rd ra rb ks) s fun s => .ok (s.select .scalar rd ra rb ks)

/-- FISZ: zero test (R122). -/
def execFisz (kd : KReg) (ra : EReg) (s : State) : Result :=
  command (.fisz kd ra) s fun s => .ok (s.setChoice kd (s.elem .field ra == 0))

/-- SISZ: zero test (R122). -/
def execSisz (kd : KReg) (ra : EReg) (s : State) : Result :=
  command (.sisz kd ra) s fun s => .ok (s.setChoice kd (s.elem .scalar ra == 0))

/-- FISODD: parity (R123). -/
def execFisodd (kd : KReg) (ra : EReg) (s : State) : Result :=
  command (.fisodd kd ra) s fun s => .ok (s.setChoice kd (isOdd (s.elem .field ra)))

/-- SISODD: parity (R123). -/
def execSisodd (kd : KReg) (ra : EReg) (s : State) : Result :=
  command (.sisodd kd ra) s fun s => .ok (s.setChoice kd (isOdd (s.elem .scalar ra)))

/-- FEQ: equality (R124). -/
def execFeq (kd : KReg) (ra rb : EReg) (s : State) : Result :=
  command (.feq kd ra rb) s fun s => .ok (s.setChoice kd (s.elem .field ra == s.elem .field rb))

/-- SEQ: equality (R124). -/
def execSeq (kd : KReg) (ra rb : EReg) (s : State) : Result :=
  command (.seq kd ra rb) s fun s => .ok (s.setChoice kd (s.elem .scalar ra == s.elem .scalar rb))

/-- SISHIGH: high-half test (R125). -/
def execSishigh (kd : KReg) (ra : EReg) (s : State) : Result :=
  command (.sishigh kd ra) s fun s => .ok (s.setChoice kd (isHigh s.cfg.n (s.elem .scalar ra)))

/-- FLDC: load a field constant (R126). -/
def execFldc (rd : EReg) (c : FConst) (s : State) : Result :=
  command (.fldc rd c) s fun s => .ok (s.setElem .field rd (fieldConst s.cfg c))

/-- SLDC: load a scalar constant (R126). -/
def execSldc (rd : EReg) (c : SConst) (s : State) : Result :=
  command (.sldc rd c) s fun s => .ok (s.setElem .scalar rd (scalarConst c))

/-- FDEC: decode a canonical element, with its validity (R127). -/
def execFdec (rg : EReg) (kd : KReg) (off len : Nat) (s : State) : Result :=
  command (.fdec rg kd off len) s fun s => s.decodeElem .field rg kd off

/-- SDEC: decode a canonical element, with its validity (R127). -/
def execSdec (rg : EReg) (kd : KReg) (off len : Nat) (s : State) : Result :=
  command (.sdec rg kd off len) s fun s => s.decodeElem .scalar rg kd off

/-- FENC: encode an element (R128). -/
def execFenc (rg : EReg) (off len : Nat) (s : State) : Result :=
  command (.fenc rg off len) s fun s => s.encodeElem .field rg off

/-- SENC: encode an element (R128). -/
def execSenc (rg : EReg) (off len : Nat) (s : State) : Result :=
  command (.senc rg off len) s fun s => s.encodeElem .scalar rg off

/-- SRED: wide reduction into [0, N) (R129). -/
def execSred (rg : EReg) (off len : Nat) (s : State) : Result :=
  command (.sred rg off len) s fun s => s.reduce rg off len

/-- SREDNZ: wide reduction into [1, N) (R130). -/
def execSrednz (rg : EReg) (off len : Nat) (s : State) : Result :=
  command (.srednz rg off len) s fun s => s.reduceNonzero rg off len

end Sys2Proof.Machine
end

