-- ==== Sys2Proof/Machine/Projective.lean ====
section
/-! DEFINITION. The projective point commands and scalar multiplication (42_projective.md). -/

namespace Sys2Proof.Machine

/-- The projective value of PNEG (R203). -/
def Proj.neg (p : Nat) (q : Proj) : Proj := ⟨q.x, negMod p q.y, q.z⟩

/-- The projective value of PFROMA (R206). -/
def Affine.toProj (a : Affine) : Proj := if a.inf then Proj.identity else ⟨a.x, a.y, 1⟩

/-- PEQ's test by cross-multiplication (R209). -/
def samePoint (p : Nat) (q1 q2 : Proj) : Bool :=
  mulMod p q1.x q2.z == mulMod p q2.x q1.z && mulMod p q1.y q2.z == mulMod p q2.y q1.z

/-- PADDM: the formula, and then the selection by inf (R201). -/
def mixedSum (c : Cfg) (q : Proj) (a : Affine) : Proj :=
  let r := pointAddMixed c q a.x a.y
  if a.inf then q else r

/-- PTOAFF (R205). -/
def State.toAffine (s : State) (rd : PReg) (q : Proj) : State :=
  let (zi, t) := s.inverseOfZ q.z
  t.setAffine rd (if q.z ≠ 0 then ⟨mulMod s.cfg.p q.x zi, mulMod s.cfg.p q.y zi, false⟩ else Affine.identity)

/-- PADD: complete addition (R200). -/
def execPadd (rd ra rb : PReg) (s : State) : Result :=
  command (.padd rd ra rb) s fun s => .ok (s.setProj rd (pointAdd s.cfg (s.proj ra) (s.proj rb)))

/-- PADDM: mixed addition (R201). -/
def execPaddm (rd ra rb : PReg) (s : State) : Result :=
  command (.paddm rd ra rb) s fun s => .ok (s.setProj rd (mixedSum s.cfg (s.proj ra) (s.affine rb)))

/-- PDBL: doubling (R202). -/
def execPdbl (rd ra : PReg) (s : State) : Result :=
  command (.pdbl rd ra) s fun s => .ok (s.setProj rd (pointDouble s.cfg (s.proj ra)))

/-- PNEG: projective negation (R203). -/
def execPneg (rd ra : PReg) (s : State) : Result :=
  command (.pneg rd ra) s fun s => .ok (s.setProj rd ((s.proj ra).neg s.cfg.p))

/-- PMUL: scalar multiplication (R204). -/
def execPmul (rd ra : PReg) (rb : EReg) (s : State) : Result :=
  command (.pmul rd ra rb) s fun s =>
    .ok (s.setProj rd (scalarMul s.cfg s.cfg.nib (s.elem .scalar rb) (s.proj ra)))

/-- PTOAFF: conversion to affine (R205). -/
def execPtoaff (rd ra : PReg) (s : State) : Result :=
  command (.ptoaff rd ra) s fun s => .ok (s.toAffine rd (s.proj ra))

/-- PFROMA: conversion from affine (R206). -/
def execPfroma (rd ra : PReg) (s : State) : Result :=
  command (.pfroma rd ra) s fun s => .ok (s.setProj rd (s.affine ra).toProj)

/-- PSEL: selection of projective points (R207). -/
def execPsel (rd ra rb : PReg) (ks : KReg) (s : State) : Result :=
  command (.psel rd ra rb ks) s fun s =>
    .ok (s.setProj rd (if s.choice ks then s.proj rb else s.proj ra))

/-- PISID: identity predicate (R208). -/
def execPisid (kd : KReg) (ra : PReg) (s : State) : Result :=
  command (.pisid kd ra) s fun s => .ok (s.setChoice kd ((s.proj ra).z == 0))

/-- PEQ: equality of the denoted points (R209). -/
def execPeq (kd : KReg) (ra rb : PReg) (s : State) : Result :=
  command (.peq kd ra rb) s fun s =>
    .ok (s.setChoice kd (samePoint s.cfg.p (s.proj ra) (s.proj rb)))

/-- PLDI: load the projective identity (R210). -/
def execPldi (rd : PReg) (s : State) : Result :=
  command (.pldi rd) s fun s => .ok (s.setProj rd Proj.identity)

end Sys2Proof.Machine
end

