-- ==== Sys2Proof/Machine/Dispatch.lean ====
section
/-! DEFINITION. The meaning of each command: what its completion does to the state (R281), with the checks of R283
from 4a on. -/

namespace Sys2Proof.Machine

def exec (i : Instr) (s : State) : Host.Outcome State Fault Refusal :=
  match i with
  | .nop => Sys2Proof.Machine.execNop s
  | .fadd rd ra rb => Sys2Proof.Machine.execFadd rd ra rb s
  | .sadd rd ra rb => Sys2Proof.Machine.execSadd rd ra rb s
  | .fsub rd ra rb => Sys2Proof.Machine.execFsub rd ra rb s
  | .ssub rd ra rb => Sys2Proof.Machine.execSsub rd ra rb s
  | .fneg rd ra => Sys2Proof.Machine.execFneg rd ra s
  | .sneg rd ra => Sys2Proof.Machine.execSneg rd ra s
  | .fmul rd ra rb => Sys2Proof.Machine.execFmul rd ra rb s
  | .smul rd ra rb => Sys2Proof.Machine.execSmul rd ra rb s
  | .fsqr rd ra => Sys2Proof.Machine.execFsqr rd ra s
  | .ssqr rd ra => Sys2Proof.Machine.execSsqr rd ra s
  | .finv rd kd ra => Sys2Proof.Machine.execFinv rd kd ra s
  | .sinv rd kd ra => Sys2Proof.Machine.execSinv rd kd ra s
  | .fsqrt rd kd ra => Sys2Proof.Machine.execFsqrt rd kd ra s
  | .ssqrt rd kd ra => Sys2Proof.Machine.execSsqrt rd kd ra s
  | .fnorm rd ra => Sys2Proof.Machine.execFnorm rd ra s
  | .snorm rd ra => Sys2Proof.Machine.execSnorm rd ra s
  | .fsel rd ra rb ks => Sys2Proof.Machine.execFsel rd ra rb ks s
  | .ssel rd ra rb ks => Sys2Proof.Machine.execSsel rd ra rb ks s
  | .fisz kd ra => Sys2Proof.Machine.execFisz kd ra s
  | .sisz kd ra => Sys2Proof.Machine.execSisz kd ra s
  | .fisodd kd ra => Sys2Proof.Machine.execFisodd kd ra s
  | .sisodd kd ra => Sys2Proof.Machine.execSisodd kd ra s
  | .feq kd ra rb => Sys2Proof.Machine.execFeq kd ra rb s
  | .seq kd ra rb => Sys2Proof.Machine.execSeq kd ra rb s
  | .sishigh kd ra => Sys2Proof.Machine.execSishigh kd ra s
  | .fldc rd c => Sys2Proof.Machine.execFldc rd c s
  | .sldc rd c => Sys2Proof.Machine.execSldc rd c s
  | .fdec rg kd off len => Sys2Proof.Machine.execFdec rg kd off len s
  | .sdec rg kd off len => Sys2Proof.Machine.execSdec rg kd off len s
  | .fenc rg off len => Sys2Proof.Machine.execFenc rg off len s
  | .senc rg off len => Sys2Proof.Machine.execSenc rg off len s
  | .sred rg off len => Sys2Proof.Machine.execSred rg off len s
  | .srednz rg off len => Sys2Proof.Machine.execSrednz rg off len s
  | .padd rd ra rb => Sys2Proof.Machine.execPadd rd ra rb s
  | .paddm rd ra rb => Sys2Proof.Machine.execPaddm rd ra rb s
  | .pdbl rd ra => Sys2Proof.Machine.execPdbl rd ra s
  | .pneg rd ra => Sys2Proof.Machine.execPneg rd ra s
  | .pmul rd ra rb => Sys2Proof.Machine.execPmul rd ra rb s
  | .ptoaff rd ra => Sys2Proof.Machine.execPtoaff rd ra s
  | .pfroma rd ra => Sys2Proof.Machine.execPfroma rd ra s
  | .psel rd ra rb ks => Sys2Proof.Machine.execPsel rd ra rb ks s
  | .pisid kd ra => Sys2Proof.Machine.execPisid kd ra s
  | .peq kd ra rb => Sys2Proof.Machine.execPeq kd ra rb s
  | .pldi rd => Sys2Proof.Machine.execPldi rd s
  | .aldi rd => Sys2Proof.Machine.execAldi rd s
  | .aldg rd => Sys2Proof.Machine.execAldg rd s
  | .aneg rd ra => Sys2Proof.Machine.execAneg rd ra s
  | .aonc kd ra => Sys2Proof.Machine.execAonc kd ra s
  | .aisid kd ra => Sys2Proof.Machine.execAisid kd ra s
  | .asel rd ra rb ks => Sys2Proof.Machine.execAsel rd ra rb ks s
  | .aget rd ra c => Sys2Proof.Machine.execAget rd ra c s
  | .aset rd kd ra rb => Sys2Proof.Machine.execAset rd kd ra rb s
  | .penc rg kd off form => Sys2Proof.Machine.execPenc rg kd off form s
  | .pdec rg kd off len => Sys2Proof.Machine.execPdec rg kd off len s
  | .cfgw slot off len => Sys2Proof.Machine.execCfgw slot off len s
  | .cfglock => Sys2Proof.Machine.execCfglock s
  | .kmov kd ka => Sys2Proof.Machine.execKmov kd ka s
  | .knot kd ka => Sys2Proof.Machine.execKnot kd ka s
  | .kand kd ka kb => Sys2Proof.Machine.execKand kd ka kb s
  | .kor kd ka kb => Sys2Proof.Machine.execKor kd ka kb s
  | .kxor kd ka kb => Sys2Proof.Machine.execKxor kd ka kb s
  | .kclr kd => Sys2Proof.Machine.execKclr kd s
  | .kset kd => Sys2Proof.Machine.execKset kd s

end Sys2Proof.Machine
end

