-- ==== Sys2Proof/Machine/Step.lean ====
section
/-! DEFINITION. One step of the core and its host (R66, R281, R341): either one host access, or the completion of the
command in flight. The events in the state say which comes next. -/

namespace Sys2Proof.Machine

/-- The completion of a command word (R281): a word that decodes to no command raises ILLEGAL (R86). -/
def runWord (w : Word) (s : State) : Result :=
  match decode w with
  | .instr i => exec i s
  | .illegal _ => .next (s.raiseError w .illegal).retire

/-- The command in flight completes; with none in flight nothing happens. -/
def finish (s : State) : Result :=
  match s.inflight with
  | some c => runWord c.word s
  | none => .next s

/-- One unit of time passes: the command in flight comes nearer to its completion, or completes (R340). -/
def passTime (s : State) : Result :=
  match s.inflight with
  | some c =>
    if c.left = 0 then runWord c.word s
    else .next { s with inflight := some { c with left := c.left - 1 } }
  | none => .next s

/-- What one event does. -/
def handle (e : Event) (s : State) : Result :=
  match e with
  | .access a => .next (s.access a)
  | .wait => finish s
  | .tick => passTime s
  | .hardReset => .next s.resetCore

/-- One step: the next event reaches the core; when none is to come, the command in flight completes, and an idle core
stays as it is (R305, R341). -/
def step (s : State) : Host.Outcome State Fault Refusal :=
  match s.events with
  | [] => finish s
  | e :: rest => handle e { s with events := rest }

/-- `s` with a command word accepted and about to complete, and the host waiting for it, so that the next step
runs exactly that word (log entry 4). -/
def State.withFetchWord (s : State) (_nbits w : Nat) : State :=
  { s with inflight := some ⟨BitVec.ofNat 32 w, 0⟩, events := .wait :: s.events }

end Sys2Proof.Machine
end

