-- ==== Sys2Proof/Safety.lean ====
section
/-! DEFINITION. What claims about the core are stated in: the invariant that every step keeps (R33), the premise
`CfgSound` that the core does not check (D10), and the points that register triples denote (R190, R199). -/

namespace Sys2Proof.Machine

/-! ### The state invariant -/

/-- An element register holds a canonical value of its domain once the configuration is locked, and 0 before
(R33). -/
def ElemOk (locked : Bool) (m v : Nat) : Prop := if locked then v < m else v = 0

/-- A projective register holds coordinates in [0, P) once the configuration is locked, and the identity before
(R25, R33). -/
def ProjOk (locked : Bool) (p : Nat) (q : Proj) : Prop :=
  if locked then q.x < p ∧ q.y < p ∧ q.z < p else q = Proj.identity

/-- An affine register holds coordinates in [0, P), both 0 where inf = 1, once the configuration is locked, and the
identity sentinel before (R26, R33). -/
def AffineOk (locked : Bool) (p : Nat) (a : Affine) : Prop :=
  if locked then a.x < p ∧ a.y < p ∧ (a.inf = true → a.x = 0 ∧ a.y = 0) else a = Affine.identity

/-- The invariant of the state: R33, the legal configuration of R27 once locked, the width of a slot (R27), and the
canonical form of the buffer. -/
structure Inv (s : State) : Prop where
  /-- Once LOCKED = 1 the slots pass every check of R261. -/
  legalCfg : s.locked = true → cfgChecks s.params s.cfg = true
  /-- Each slot holds an integer of at most 8·LMAXB bits (R27). -/
  slotWidth : ∀ slot, s.cfg.get slot < 2 ^ (8 * Config.lMaxB)
  fieldOk : ∀ i, ElemOk s.locked s.cfg.p (s.elem .field i)
  scalarOk : ∀ i, ElemOk s.locked s.cfg.n (s.elem .scalar i)
  projOk : ∀ i, ProjOk s.locked s.cfg.p (s.proj i)
  affineOk : ∀ i, AffineOk s.locked s.cfg.p (s.affine i)
  /-- ERRCODE = 0 iff ERR = 0 (R33, R280). -/
  errCodeOk : s.errCode = .none ↔ s.err = false
  /-- ERRCMD is cleared with ERR (R59). -/
  errCmdOk : s.err = false → s.errCmd = 0
  /-- BUF is in canonical form. -/
  bufOk : s.buf.wf

/-! ### Sound configurations (D10) -/

/-- The number of points of the configured curve over GF(P), the identity among them. -/
def pointCount (c : Cfg) : Nat :=
  1 + ((Finset.range c.p ×ˢ Finset.range c.p).filter (fun xy => onCurve c xy.1 xy.2 = true)).card

/-- What the host must supply and the core does not check: P and N are prime, and the curve has N points (D10). -/
structure CfgSound (c : Cfg) : Prop where
  fieldPrime : c.p.Prime
  orderPrime : c.n.Prime
  order : c.n = pointCount c

/-! ### Denotation -/

/-- The configured curve y² = x³ + a·x + b over GF(P) (R170), as Mathlib's Weierstrass curve, whose points form the
group that the group-law statements are about. -/
def curveOf (c : Cfg) : WeierstrassCurve.Affine (ZMod c.p) := ⟨0, 0, 0, (c.a : ZMod c.p), (c.b : ZMod c.p)⟩

/-- The triple denotes the point (R190): the identity where Z = 0, and (X·Z⁻¹, Y·Z⁻¹) otherwise, said without
inverses. -/
def DenotesPoint (c : Cfg) (q : Proj) : (curveOf c).Point → Prop
  | .zero => q.z = 0
  | .some x y _ => q.z ≠ 0 ∧ x * (q.z : ZMod c.p) = (q.x : ZMod c.p) ∧ y * (q.z : ZMod c.p) = (q.y : ZMod c.p)

/-- The affine register value denotes the point (R26). -/
def AffineDenotes (c : Cfg) (a : Affine) : (curveOf c).Point → Prop
  | .zero => a.inf = true
  | .some x y _ => a.inf = false ∧ x = (a.x : ZMod c.p) ∧ y = (a.y : ZMod c.p)

/-- The triple satisfies the homogeneous curve equation Y²Z = X³ + aXZ² + bZ³ (mod P). -/
def OnProjCurve (c : Cfg) (q : Proj) : Prop :=
  q.y * q.y * q.z % c.p = (q.x * q.x * q.x + c.a * q.x * (q.z * q.z) + c.b * (q.z * q.z * q.z)) % c.p

/-- The affine register value is the identity sentinel or a point of the curve (R26). -/
def OnAffineCurve (c : Cfg) (a : Affine) : Prop :=
  a = Affine.identity ∨ (a.inf = false ∧ a.x < c.p ∧ a.y < c.p ∧ onCurve c a.x a.y = true)

/-- A valid triple (R199), with canonical coordinates (R25): a finite curve point with Z ≠ 0, or (0, Y, 0) with
Y ≠ 0. -/
def ValidTriple (c : Cfg) (q : Proj) : Prop :=
  (q.x < c.p ∧ q.y < c.p ∧ q.z < c.p) ∧
  ((q.z ≠ 0 ∧ OnProjCurve c q) ∨ (q.x = 0 ∧ q.z = 0 ∧ q.y ≠ 0))

/-- What R199 and R26 say of the point registers: once the configuration is locked, and if it is sound, every Q register
holds a valid triple and every A register the identity or a curve point. Before the lock they hold the identities. -/
structure PointsOk (s : State) : Prop where
  proj : ∀ i, if s.locked then ValidTriple s.cfg (s.proj i) else s.proj i = Proj.identity
  affine : ∀ i, if s.locked then OnAffineCurve s.cfg (s.affine i) else s.affine i = Affine.identity

/-! ### Latency -/

/-- Two states agree on the public state that the latency of every command may depend on (R340): LOCKED, the instance,
and the configuration but for FLAGS. -/
structure SamePublic (s t : State) : Prop where
  locked : s.locked = t.locked
  params : s.params = t.params
  cfg : { s.cfg with flags := 0 } = { t.cfg with flags := 0 }

/-! ### Errors -/

/-- The state after the error effects of R282 and the end of the command, where no error stood before. -/
def State.failed (s : State) (i : Instr) (c : ErrCode) : State :=
  { s with err := true, errCode := c, errCmd := encode i, done := true, inflight := none }

/-! ### Which register a command may write (R22 to R29) -/

/-- The F register the command writes, if any (R22). -/
def writesField : Instr → Option EReg
  | .fadd rd _ _ => some rd
  | .fsub rd _ _ => some rd
  | .fneg rd _ => some rd
  | .fmul rd _ _ => some rd
  | .fsqr rd _ => some rd
  | .finv rd _ _ => some rd
  | .fsqrt rd _ _ => some rd
  | .fnorm rd _ => some rd
  | .fsel rd _ _ _ => some rd
  | .fldc rd _ => some rd
  | .fdec rg _ _ _ => some rg
  | .aget rd _ _ => some rd
  | _ => none

/-- The S register the command writes, if any (R23). -/
def writesScalar : Instr → Option EReg
  | .sadd rd _ _ => some rd
  | .ssub rd _ _ => some rd
  | .sneg rd _ => some rd
  | .smul rd _ _ => some rd
  | .ssqr rd _ => some rd
  | .sinv rd _ _ => some rd
  | .ssqrt rd _ _ => some rd
  | .snorm rd _ => some rd
  | .ssel rd _ _ _ => some rd
  | .sldc rd _ => some rd
  | .sdec rg _ _ _ => some rg
  | .sred rg _ _ => some rg
  | .srednz rg _ _ => some rg
  | _ => none

/-- The Q register the command writes, if any: the writers R25 lists. -/
def writesProj : Instr → Option PReg
  | .padd rd _ _ => some rd
  | .paddm rd _ _ => some rd
  | .pdbl rd _ => some rd
  | .pneg rd _ => some rd
  | .pmul rd _ _ => some rd
  | .pfroma rd _ => some rd
  | .psel rd _ _ _ => some rd
  | .pldi rd => some rd
  | _ => none

/-- The A register the command writes, if any: the writers R26 lists. -/
def writesAffine : Instr → Option PReg
  | .aldi rd => some rd
  | .aldg rd => some rd
  | .aneg rd _ => some rd
  | .asel rd _ _ _ => some rd
  | .aset rd _ _ _ => some rd
  | .ptoaff rd _ => some rd
  | .pdec rg _ _ _ => some rg
  | _ => none

/-- The choice bit the command writes, if any: the writers R29 lists. -/
def writesChoice : Instr → Option KReg
  | .finv _ kd _ => some kd
  | .sinv _ kd _ => some kd
  | .fsqrt _ kd _ => some kd
  | .ssqrt _ kd _ => some kd
  | .fdec _ kd _ _ => some kd
  | .sdec _ kd _ _ => some kd
  | .fisz kd _ => some kd
  | .sisz kd _ => some kd
  | .fisodd kd _ => some kd
  | .sisodd kd _ => some kd
  | .feq kd _ _ => some kd
  | .seq kd _ _ => some kd
  | .sishigh kd _ => some kd
  | .pisid kd _ => some kd
  | .peq kd _ _ => some kd
  | .aonc kd _ => some kd
  | .aisid kd _ => some kd
  | .aset _ kd _ _ => some kd
  | .penc _ kd _ _ => some kd
  | .pdec _ kd _ _ => some kd
  | .kmov kd _ => some kd
  | .knot kd _ => some kd
  | .kand kd _ _ => some kd
  | .kor kd _ _ => some kd
  | .kxor kd _ _ => some kd
  | .kclr kd => some kd
  | .kset kd => some kd
  | _ => none

/-- The offsets [first, first + length) of BUF that the command may write in state s, and whether it writes RESLEN: FENC,
SENC and PENC only (R59, R128, R241). -/
def writesBytes (s : State) : Instr → Option (Nat × Nat)
  | .fenc _ off _ => some (off, s.cfg.eb)
  | .senc _ off _ => some (off, s.cfg.eb)
  | .penc rg _ off form => some (off, (pointBytes s.cfg.eb form (s.affine rg)).length)
  | _ => none

/-! ### Host accesses -/

/-- An aligned 32-bit read of the register at an offset from BASE (R52, R53). -/
def State.readOf (s : State) (off : Nat) : BusAccess := ⟨.read, s.params.base + off, 32⟩

/-- An aligned 32-bit write of the register at an offset from BASE (R52, R53). -/
def State.writeOf (s : State) (off : Nat) (v : Word) : BusAccess := ⟨.write v, s.params.base + off, 32⟩

end Sys2Proof.Machine
end

