-- ==== Sys2Proof/Certificates/Slice0/Obligations.lean ====
section
/-! DEFINITION. The statements for the provers. Each docstring names the rules of spec/ it formalises. Where a
statement's conclusion is `exec i s = .next` of a record update, that one equation says the result, that the command
completes, and its frame: every field not named is unchanged, the buffer and so every byte of it included. -/

open Sys2Proof Sys2Proof.Machine

/-! ### Encoding -/

/-- Decoding the encoding of a well-formed command gives it back, for every command and every operand its encoding admits
(R80 to R85). -/
def Obligations.DecodeOfEncode : Prop :=
  ∀ i : Instr, i.wf = true → decode (encode i) = .instr i

/-- A word that decodes to a command is the encoding of that command, which is well formed: each command has one word
(R84, R85, R88). -/
def Obligations.EncodeOfDecode : Prop :=
  ∀ (w : Word) (i : Instr), decode w = .instr i → i.wf = true ∧ encode i = w

/-- No two rows of the opcode map match the same word, so the order of the decode loop does not matter (R85). -/
def Obligations.OpcodeRowsDisjoint : Prop :=
  opcodeTable.length = 64 ∧ opcodeTable.Pairwise fun r r' => ∀ w : Word, ¬(r.fits w = true ∧ r'.fits w = true)

/-- The words that R91 writes out decode to the commands it names. -/
def Obligations.SpecWordsDecode : Prop :=
  decode 0x00000000 = .instr .nop ∧
  decode 0x10031200 = .instr (.fmul 3 1 2) ∧
  decode 0x12031200 = .instr (.smul 3 1 2) ∧
  decode 0x18143000 = .instr (.finv 4 1 3) ∧
  decode 0x24812300 = .instr (.fsel 1 2 3 2) ∧
  decode 0x38050003 = .instr (.fldc 5 .b) ∧
  decode 0x40002000 = .instr (.fdec 0 0 0x00 32) ∧
  decode 0x44022040 = .instr (.fenc 2 0x40 32) ∧
  decode 0x4A014000 = .instr (.sred 1 0x00 64) ∧
  decode 0x80020100 = .instr (.padd 2 0 1) ∧
  decode 0x90010500 = .instr (.pmul 1 0 5) ∧
  decode 0x94011000 = .instr (.ptoaff 1 1) ∧
  decode 0xE0010000 = .instr (.penc 1 0 0x00 .compressed) ∧
  decode 0xE0810000 = .instr (.penc 1 0 0x00 .uncompressed) ∧
  decode 0xE4322110 = .instr (.pdec 2 3 0x10 33) ∧
  decode 0xF0022000 = .instr (.cfgw .P 0x00 32) ∧
  decode 0xF4000000 = .instr .cfglock ∧
  decode 0xF8001202 = .instr (.kand 0 1 2)

/-- The reserved encodings that R86 lists decode to no command: reserved opcodes, M = 1 with a non-element opcode, M = 0
with SISHIGH, SRED and SREDNZ, a set bit 24 of format R, Q and A indices of 8 and more in RD, RG, RA and RB, selectors out of
range, FORM = 3, slots of 12 and more, and any nonzero bit in a field that the command does not use: for each opcode, the bits
of its rows in R84 that are 0 and belong to no operand. -/
def Obligations.ReservedWordsIllegal : Prop :=
  ∀ w : Word,
    ((w.extractLsb' 26 6).toNat ∈
        [0x0F, 0x14, 0x15, 0x16, 0x17, 0x18, 0x19, 0x1A, 0x1B, 0x1C, 0x1D, 0x1E, 0x1F, 0x2B, 0x2C, 0x2D, 0x2E, 0x2F,
         0x3A, 0x3B, 0x3F] ∨
     ((w.extractLsb' 26 6).toNat = 0 ∧ w ≠ 0) ∨
     (w.getLsbD 25 = true ∧ 0x20 ≤ (w.extractLsb' 26 6).toNat) ∨
     (w.getLsbD 25 = false ∧ (w.extractLsb' 26 6).toNat ∈ [0x0D, 0x12, 0x13]) ∨
     (w.getLsbD 24 = true ∧ (w.extractLsb' 26 6).toNat ≠ 0x38) ∨
     ((w.extractLsb' 23 2).toNat = 3 ∧ (w.extractLsb' 26 6).toNat = 0x38) ∨
     (w.getLsbD 19 = true ∧ 0x20 ≤ (w.extractLsb' 26 6).toNat ∧ (w.extractLsb' 26 6).toNat ≠ 0x36 ∧
        (w.extractLsb' 26 6).toNat ≠ 0x3C) ∨
     (w.getLsbD 15 = true ∧ (w.extractLsb' 26 6).toNat ∈
        [0x20, 0x21, 0x22, 0x23, 0x24, 0x25, 0x26, 0x27, 0x28, 0x29, 0x32, 0x33, 0x34, 0x35, 0x36, 0x38]) ∨
     (w.getLsbD 11 = true ∧ (w.extractLsb' 26 6).toNat ∈ [0x20, 0x21, 0x27, 0x29, 0x35]) ∨
     (∃ e ∈ ([([0x01, 0x02, 0x04], 0xF000FF), ([0x03, 0x05, 0x08], 0xF00FFF), ([0x06, 0x07], 0xC00FFF),
              ([0x09], 0x3000FF), ([0x0A, 0x0B, 0x0D], 0xCF0FFF), ([0x0C], 0xCF00FF), ([0x0E], 0xF0FFF0),
              ([0x10], 0x1C00000), ([0x11, 0x12, 0x13, 0x3C], 0x1F00000), ([0x20, 0x21], 0xF800FF),
              ([0x22, 0x23, 0x25, 0x26, 0x32], 0xF80FFF), ([0x24], 0xF800FF), ([0x27, 0x35], 0x3800FF),
              ([0x28, 0x33, 0x34], 0xCF0FFF), ([0x29], 0xCF00FF), ([0x2A, 0x30, 0x31], 0xF8FFFF),
              ([0x36], 0xF00FF0), ([0x37], 0xC800FF), ([0x38], 0x40FF00), ([0x39], 0x1C80000),
              ([0x3D], 0xFFFFFF), ([0x3E], 0xCFCCF0)] : List (List Nat × Word)),
        (w.extractLsb' 26 6).toNat ∈ e.1 ∧ w &&& e.2 ≠ 0) ∨
     ((w.extractLsb' 26 6).toNat = 0x3E ∧ (w.extractLsb' 0 4).toNat ∈ [0, 1] ∧ w &&& 0xF00 ≠ 0) ∨
     ((w.extractLsb' 26 6).toNat = 0x3E ∧ (w.extractLsb' 0 4).toNat ∈ [5, 6] ∧ w &&& 0xFF00 ≠ 0) ∨
     ((w.extractLsb' 26 6).toNat = 0x0E ∧ 4 ≤ (w.extractLsb' 0 4).toNat) ∨
     ((w.extractLsb' 26 6).toNat = 0x0E ∧ w.getLsbD 25 = true ∧ 2 ≤ (w.extractLsb' 0 4).toNat) ∨
     ((w.extractLsb' 26 6).toNat = 0x36 ∧ 2 ≤ (w.extractLsb' 0 4).toNat) ∨
     ((w.extractLsb' 26 6).toNat = 0x3E ∧ 7 ≤ (w.extractLsb' 0 4).toNat) ∨
     ((w.extractLsb' 26 6).toNat = 0x3C ∧ 12 ≤ (w.extractLsb' 16 4).toNat)) →
    ∃ why, decode w = .illegal why

/-! ### Steps -/

/-- When the command in flight decodes to an instruction and completes, the step is that instruction's meaning, at the state
with the event that led to it taken off the list: the host waits, its schedule is empty, or the last unit of time passes.
A word placed with `withFetchWord` runs as the very next step (R281, R341; log entry 4). -/
def Obligations.StepRunsDecodedInstruction : Prop :=
  (∀ (s : State) (c : InFlight) (i : Instr), s.inflight = some c → decode c.word = .instr i →
    (s.events = [] → step s = exec i s) ∧
    (∀ rest, s.events = .wait :: rest → step s = exec i { s with events := rest }) ∧
    (∀ rest, s.events = .tick :: rest → c.left = 0 → step s = exec i { s with events := rest })) ∧
  (∀ (s : State) (nbits w : Nat) (i : Instr), decode (BitVec.ofNat 32 w) = .instr i →
    step (s.withFetchWord nbits w) = exec i { s with inflight := some ⟨BitVec.ofNat 32 w, 0⟩ })

/-- The other steps: a word that decodes to no command completes with the ILLEGAL error and no other effect, or, where an
error stands already, with DONE alone (R86, R281, R282; log entry 6); a host access and a hard reset are steps of their own
(R66, R320); time passes over a command that is not yet done (R340), and an idle core stays as it is (R305). The list of
events, the unit of time and the count of draws that a reset leaves are the model's choice (log entries 3, 4 and 12). -/
def Obligations.StepHandlesOtherEvents : Prop :=
  (∀ (s : State) (c : InFlight) (why : Reject), s.inflight = some c → decode c.word = .illegal why →
    let failed (t : State) : State :=
      if s.err then { t with done := true, inflight := none }
      else { t with err := true, errCode := .illegal, errCmd := c.word, done := true, inflight := none }
    (s.events = [] → step s = .next (failed s)) ∧
    (∀ rest, s.events = .wait :: rest → step s = .next (failed { s with events := rest })) ∧
    (∀ rest, s.events = .tick :: rest → c.left = 0 → step s = .next (failed { s with events := rest }))) ∧
  (∀ (s : State) (rest : List Event),
    (∀ a, s.events = .access a :: rest → step s = .next (State.access { s with events := rest } a)) ∧
    (s.events = .hardReset :: rest →
      step s = .next { State.resetOf s.params with events := rest, draws := s.draws }) ∧
    (∀ c, s.events = .tick :: rest → s.inflight = some c → c.left ≠ 0 →
      step s = .next { s with events := rest, inflight := some { c with left := c.left - 1 } }) ∧
    (s.inflight = none → s.events = .tick :: rest ∨ s.events = .wait :: rest →
      step s = .next { s with events := rest }) ∧
    (s.inflight = none → s.events = [] → step s = .next s))

/-- No state is stuck: every step, and every command in every state, ends in a next state, never in a fault or a
refusal (R341, U17). -/
def Obligations.StepNeverStops : Prop :=
  (∀ s : State, ∃ t, step s = .next t) ∧ (∀ (i : Instr) (s : State), ∃ t, exec i s = .next t ∧ t.inflight = none)

/-- Every accepted command completes (R341): after as many units of time as its latency says, and one more, it is no longer
in flight, whatever it is. The unit of time and the list of events are the model's choice (log entries 4 and 12). -/
def Obligations.AcceptedCommandCompletes : Prop :=
  ∀ (s : State) (c : InFlight) (rest : List Event), s.inflight = some c →
    s.events = List.replicate (c.left + 1) .tick ++ rest →
    ∃ t : State, Host.Core.run core (c.left + 1) s = .next t ∧ t.inflight = none ∧ t.events = rest

/-! ### Invariants and reset -/

/-- Every step keeps the invariant: canonical registers once locked and reset values before, a legal configuration once
locked, ERRCODE = 0 iff ERR = 0, ERRCMD cleared with ERR, and the buffer's canonical form (R27, R33, R59). -/
def Obligations.StepKeepsInvariant : Prop :=
  ∀ s t : State, Inv s → step s = .next t → Inv t

/-- The reset state of every instance meets the invariant. -/
def Obligations.ResetMeetsInvariant : Prop :=
  Inv State.reset ∧ ∀ p : Params, Inv (State.resetOf p)

/-- Every piece of state after reset is as the table of R34 says; the interrupt output is 0. -/
def Obligations.ResetValues : Prop :=
  ∀ p : Params,
    let s := State.resetOf p
    (∀ i, s.elem .field i = 0) ∧ (∀ i, s.elem .scalar i = 0) ∧ (∀ i, s.proj i = ⟨0, 1, 0⟩) ∧
    (∀ i, s.affine i = ⟨0, 0, true⟩) ∧ (∀ i, s.choice i = false) ∧ (∀ slot, s.cfg.get slot = 0) ∧ s.locked = false ∧
    (∀ off, s.buf.read off = 0x00) ∧ s.ie = false ∧ s.busy = false ∧ s.done = false ∧ s.err = false ∧
    s.errCode.num = 0 ∧ s.errCmd = 0 ∧ s.resLen = 0 ∧ s.inflight = none ∧ s.irq = false

/-- Both resets, from every state and so also while a command is in flight, leave exactly the reset state: the command is
abandoned, none of its results is written and DONE is not set; the IE bit of the write that resets is not kept (R320,
R321). What is not the core's state stays: the instance, and, by the model's choice, the list of events and the count of draws, and
the answer to the write (log entries 3 and 4). -/
def Obligations.ResetsRestoreState : Prop :=
  (∀ (s : State) (rest : List Event), s.events = .hardReset :: rest →
    step s = .next { State.resetOf s.params with events := rest, draws := s.draws }) ∧
  (∀ (s : State) (rest : List Event) (v : Word), v.getLsbD 1 = true → s.events = .access (s.writeOf 0x008 v) :: rest →
    step s = .next { State.resetOf s.params with events := rest, draws := s.draws, resp := some .ack })

/-- LOCKED rises only by the completion of a CFGLOCK whose checks pass, falls only by a reset, and while it stands no step
but a reset changes a configuration slot (R28). -/
def Obligations.LockedWriters : Prop :=
  ∀ s t : State, step s = .next t →
    (s.locked = false → t.locked = true →
      (∃ c, s.inflight = some c ∧ decode c.word = .instr .cfglock) ∧ cfgChecks s.params s.cfg = true) ∧
    (s.locked = true → t.locked = false →
      ∃ rest, t = { State.resetOf s.params with events := rest, draws := s.draws, resp := t.resp } ∧
        (s.events = .hardReset :: rest ∨
          ∃ a v, s.events = .access a :: rest ∧ a.addr = s.params.base + 0x008 ∧ a.kind = .write v ∧
            v.getLsbD 1 = true)) ∧
    (s.locked = true → t.locked = true → t.cfg = s.cfg)

/-- Under a sound configuration every Q register holds a valid triple and every A register the identity or a curve point,
at all times: every step keeps this (R199, R26). -/
def Obligations.StepKeepsPoints : Prop :=
  ∀ s t : State, Inv s → (s.locked = true → CfgSound s.cfg) → PointsOk s → step s = .next t → PointsOk t

/-! ### Frames -/

/-- Which register a command may write (R22 to R29, R59): every other F, S, Q and A register and choice bit keeps its
value; a slot is written only by the CFGW that names it, LOCKED only by CFGLOCK, RESLEN only by FENC, SENC and PENC; IE,
the instance, the host's schedule and its last answer are never written by a command; and a command that completes leaves
DONE = 1 and BUSY = 0. -/
def Obligations.CommandFrame : Prop :=
  ∀ (i : Instr) (s t : State), exec i s = .next t →
    (∀ j, writesField i ≠ some j → t.elem .field j = s.elem .field j) ∧
    (∀ j, writesScalar i ≠ some j → t.elem .scalar j = s.elem .scalar j) ∧
    (∀ j, writesProj i ≠ some j → t.proj j = s.proj j) ∧
    (∀ j, writesAffine i ≠ some j → t.affine j = s.affine j) ∧
    (∀ j, writesChoice i ≠ some j → t.choice j = s.choice j) ∧
    (∀ slot, (∀ off len, i ≠ .cfgw slot off len) → t.cfg.get slot = s.cfg.get slot) ∧
    (i ≠ .cfglock → t.locked = s.locked) ∧
    (writesBytes s i = none → t.resLen = s.resLen) ∧
    t.ie = s.ie ∧ t.params = s.params ∧ t.events = s.events ∧ t.resp = s.resp ∧ t.done = true ∧ t.inflight = none

/-- Which bytes of BUF a command may write: FENC and SENC the EB bytes at OFF, PENC the bytes of its encoding at OFF, and
every other command none (R128, R241, R50). -/
def Obligations.BufferFrame : Prop :=
  ∀ (i : Instr) (s t : State), exec i s = .next t →
    match writesBytes s i with
    | some (off, n) => ∀ a, a < off ∨ off + n ≤ a → t.buf.read a = s.buf.read a
    | none => ∀ a, t.buf.read a = s.buf.read a

/-- Two buffers in canonical form that read alike at every offset are the same data (log entry 7). -/
def Obligations.EqualBuffersEqualData : Prop :=
  ∀ m m' : Memory, m.wf → m'.wf → (∀ off, m.read off = m'.read off) → m = m'

/-! ### Errors -/

/-- A command that fails a check, with no error standing, has the error effects and nothing else: ERR, ERRCODE, ERRCMD and
DONE are written, and BUSY falls (R282, R281). -/
def Obligations.FailedCheckErrorEffects : Prop :=
  ∀ (i : Instr) (s : State) (c : ErrCode), s.err = false → checks s (shapeOf i) = some c →
    exec i s = .next { s with err := true, errCode := c, errCmd := encode i, done := true, inflight := none }

/-- The errors of the configuration's state, in the order of R283: unlocked, every command but NOP, the KOP group, CFGW and
CFGLOCK raises NOCFG; locked, CFGW and CFGLOCK raise LOCKED; unlocked, CFGW raises BOUNDS, then LEN by the slot's range;
CFGLOCK raises CFGCHECK exactly when a check of R261 fails, and locks otherwise, also over a slot never written whose 0 passes
them (the model's deduction, log entry 18). -/
def Obligations.ConfigurationStateErrors : Prop :=
  ∀ s : State, s.err = false →
    (s.locked = false → ∀ i : Instr, shapeOf i ≠ .always → (∀ slot off len, i ≠ .cfgw slot off len) → i ≠ .cfglock →
      exec i s = .next (s.failed i .nocfg)) ∧
    (s.locked = true → exec .cfglock s = .next (s.failed .cfglock .locked)) ∧
    (∀ slot off len, s.locked = true → exec (.cfgw slot off len) s = .next (s.failed (.cfgw slot off len) .locked)) ∧
    (∀ slot off len, s.locked = false → 256 < off + len →
      exec (.cfgw slot off len) s = .next (s.failed (.cfgw slot off len) .bounds)) ∧
    (∀ slot off len, s.locked = false → off + len ≤ 256 →
      len < (slotLenRange s.params slot).1 ∨ (slotLenRange s.params slot).2 < len →
      exec (.cfgw slot off len) s = .next (s.failed (.cfgw slot off len) .len)) ∧
    (s.locked = false → cfgChecks s.params s.cfg = false → exec .cfglock s = .next (s.failed .cfglock .cfgcheck)) ∧
    (s.locked = false → cfgChecks s.params s.cfg = true →
      exec .cfglock s = .next { s with locked := true, done := true, inflight := none })

/-- The errors of the buffer commands once locked, in the order of R283: BOUNDS before LEN for FDEC, SDEC, FENC, SENC, SRED
and SREDNZ; BOUNDS by the form's longest encoding for PENC; BOUNDS, then LEN for LEN = 0, then TAG, then LEN by the tag
for PDEC. -/
def Obligations.BufferCommandErrors : Prop :=
  ∀ s : State, s.err = false → s.locked = true → ∀ (r : EReg) (a : PReg) (k : KReg) (off len : Nat),
    (256 < off + len →
      exec (.fdec r k off len) s = .next (s.failed (.fdec r k off len) .bounds) ∧
      exec (.sdec r k off len) s = .next (s.failed (.sdec r k off len) .bounds) ∧
      exec (.fenc r off len) s = .next (s.failed (.fenc r off len) .bounds) ∧
      exec (.senc r off len) s = .next (s.failed (.senc r off len) .bounds) ∧
      exec (.sred r off len) s = .next (s.failed (.sred r off len) .bounds) ∧
      exec (.srednz r off len) s = .next (s.failed (.srednz r off len) .bounds) ∧
      exec (.pdec a k off len) s = .next (s.failed (.pdec a k off len) .bounds)) ∧
    (off + len ≤ 256 → len ≠ s.cfg.eb →
      exec (.fdec r k off len) s = .next (s.failed (.fdec r k off len) .len) ∧
      exec (.sdec r k off len) s = .next (s.failed (.sdec r k off len) .len) ∧
      exec (.fenc r off len) s = .next (s.failed (.fenc r off len) .len) ∧
      exec (.senc r off len) s = .next (s.failed (.senc r off len) .len)) ∧
    (off + len ≤ 256 → len = 0 ∨ 2 * s.cfg.eb < len →
      exec (.sred r off len) s = .next (s.failed (.sred r off len) .len) ∧
      exec (.srednz r off len) s = .next (s.failed (.srednz r off len) .len)) ∧
    (256 < off + (1 + 2 * s.cfg.eb) →
      exec (.penc a k off .uncompressed) s = .next (s.failed (.penc a k off .uncompressed) .bounds)) ∧
    (256 < off + (1 + s.cfg.eb) →
      exec (.penc a k off .compressed) s = .next (s.failed (.penc a k off .compressed) .bounds) ∧
      exec (.penc a k off .compact) s = .next (s.failed (.penc a k off .compact) .bounds)) ∧
    (off ≤ 256 → exec (.pdec a k off 0) s = .next (s.failed (.pdec a k off 0) .len)) ∧
    (off + len ≤ 256 → len ≠ 0 → s.buf.read off ∉ [0x00, 0x02, 0x03, 0x04, 0x05] →
      exec (.pdec a k off len) s = .next (s.failed (.pdec a k off len) .tag)) ∧
    (off + len ≤ 256 → len ≠ 0 →
      (s.buf.read off = 0x00 ∧ len ≠ 1) ∨ (s.buf.read off = 0x04 ∧ len ≠ 1 + 2 * s.cfg.eb) ∨
        (s.buf.read off ∈ [0x02, 0x03, 0x05] ∧ len ≠ 1 + s.cfg.eb) →
      exec (.pdec a k off len) s = .next (s.failed (.pdec a k off len) .len))

/-- Which error codes each family may raise on its completion (R285), and that the raised code names this command. -/
def Obligations.ErrorsByCommand : Prop :=
  ∀ (i : Instr) (s t : State), s.err = false → exec i s = .next t → t.err = true →
    t.errCmd = encode i ∧
    match shapeOf i with
    | .always => False
    | .register => t.errCode = .nocfg
    | .element _ _ => t.errCode ∈ [.nocfg, .bounds, .len]
    | .wide _ _ => t.errCode ∈ [.nocfg, .bounds, .len]
    | .penc _ _ => t.errCode ∈ [.nocfg, .bounds]
    | .pdec _ _ => t.errCode ∈ [.nocfg, .bounds, .len, .tag]
    | .cfgw _ _ _ => t.errCode ∈ [.locked, .bounds, .len]
    | .cfglock => t.errCode ∈ [.locked, .cfgcheck]

/-- ERRCODE and ERRCMD describe the first error since ERR was last cleared (R31, R56, R288): no step changes them while ERR
stays 1; a command that fails a check while a BUSY error raised during it stands has DONE and the fall of BUSY as its only
effects, and one that passes its checks leaves the standing error alone (R292). That the unconditional assignments of R281 and
R282 yield to this is the model's deduction (log entry 6). -/
def Obligations.ErrorOverStandingError : Prop :=
  (∀ s t : State, step s = .next t → s.err = true → t.err = true → t.errCode = s.errCode ∧ t.errCmd = s.errCmd) ∧
  (∀ (i : Instr) (s : State) (c : ErrCode), s.err = true → checks s (shapeOf i) = some c →
    exec i s = .next { s with done := true, inflight := none }) ∧
  (∀ (i : Instr) (s t : State), s.err = true → exec i s = .next t →
    t.err = true ∧ t.errCode = s.errCode ∧ t.errCmd = s.errCmd ∧ t.done = true ∧ t.inflight = none)

/-! ### The register window -/

/-- A host write to CMD (R281): ignored while ERR = 1; dropped with the BUSY error while BUSY = 1, where the command in flight
goes on; accepted otherwise, with nothing else changed, for some finite latency. -/
def Obligations.CommandAcceptance : Prop :=
  ∀ (s : State) (w : Word),
    (s.err = true → s.access (s.writeOf 0x010 w) = { s with resp := some .ack }) ∧
    (s.err = false → s.busy = true →
      s.access (s.writeOf 0x010 w) = { s with err := true, errCode := .busy, errCmd := w, resp := some .ack }) ∧
    (s.err = false → s.busy = false →
      ∃ n, s.access (s.writeOf 0x010 w) = { s with inflight := some ⟨w, n⟩, resp := some .ack })

/-- Host access to a BUF word (R61, R62). While BUSY = 0 a write sets the four bytes in little-endian lane order and no
other (for a buffer in its canonical form, which every step keeps: StepKeepsInvariant), and a read returns them. While BUSY = 1 a write changes no byte and raises the BUSY error with ERRCMD = 0 if no error
stands, and a read returns some word and changes nothing of the core. -/
def Obligations.BufferWindow : Prop :=
  ∀ (s : State) (j : Nat) (v : Word), j < 64 →
    (s.busy = false →
      (s.buf.wf → ∃ m, s.access (s.writeOf (0x100 + 4 * j) v) = { s with buf := m, resp := some .ack } ∧
        (∀ k, k < 4 → m.read (4 * j + k) = v.extractLsb' (8 * k) 8) ∧
        (∀ a, a < 4 * j ∨ 4 * j + 4 ≤ a → m.read a = s.buf.read a)) ∧
      (∃ w, s.access (s.readOf (0x100 + 4 * j)) = { s with resp := some (.data w) } ∧
        ∀ k, k < 4 → w.extractLsb' (8 * k) 8 = s.buf.read (4 * j + k))) ∧
    (s.busy = true →
      (s.err = false → s.access (s.writeOf (0x100 + 4 * j) v) =
        { s with err := true, errCode := .busy, errCmd := 0, resp := some .ack }) ∧
      (s.err = true → s.access (s.writeOf (0x100 + 4 * j) v) = { s with resp := some .ack }) ∧
      (∃ w, s.access (s.readOf (0x100 + 4 * j)) = { s with resp := some (.data w), draws := s.draws + 1 }))

/-- STATUS (R56): a read returns the word whose bits are BUSY, DONE, ERR, LOCKED, ERRCODE, K and zeros, and changes nothing; a
write clears DONE where bit 1 is set, and ERR, ERRCODE and ERRCMD together where bit 2 is set, and changes nothing else,
whether or not BUSY = 1. -/
def Obligations.StatusRegister : Prop :=
  ∀ s : State,
    (∃ w : Word, s.access (s.readOf 0x00C) = { s with resp := some (.data w) } ∧
      w.getLsbD 0 = s.busy ∧ w.getLsbD 1 = s.done ∧ w.getLsbD 2 = s.err ∧ w.getLsbD 3 = s.locked ∧
      (w.extractLsb' 4 4).toNat = s.errCode.num ∧ (∀ i : KReg, w.getLsbD (8 + i) = s.choice i) ∧
      w.extractLsb' 12 20 = 0) ∧
    (∀ v : Word, s.access (s.writeOf 0x00C v) =
      { s with done := s.done && !v.getLsbD 1, err := s.err && !v.getLsbD 2,
               errCode := if v.getLsbD 2 then .none else s.errCode,
               errCmd := if v.getLsbD 2 then 0 else s.errCmd, resp := some .ack })

/-- The other registers of the window (R54, R55, R58, R59, R60): ID, PARAM for both limb widths, CMD that reads 0, ERRCMD,
RESLEN and the reserved offsets that read 0; writes to the read-only and reserved ones are ignored; a fetch is a read.
An access that is not an aligned 32-bit access inside the window gets a bus error and has no other effect (R52). -/
def Obligations.WindowRegisters : Prop :=
  ∀ s : State,
    s.access (s.readOf 0x000) = { s with resp := some (.data 0x45434331) } ∧
    (s.params.limb = .w64 → s.access (s.readOf 0x004) = { s with resp := some (.data 0x00024040) }) ∧
    (s.params.limb = .w32 → s.access (s.readOf 0x004) = { s with resp := some (.data 0x00024020) }) ∧
    s.access (s.readOf 0x010) = { s with resp := some (.data 0) } ∧
    s.access (s.readOf 0x014) = { s with resp := some (.data s.errCmd) } ∧
    s.access (s.readOf 0x018) = { s with resp := some (.data (s.resLen.zeroExtend 32)) } ∧
    (∀ off, 0x01C ≤ off → off < 0x100 → off % 4 = 0 → s.access (s.readOf off) = { s with resp := some (.data 0) }) ∧
    (∀ off v, (off ∈ [0x000, 0x004, 0x014, 0x018] ∨ (0x01C ≤ off ∧ off < 0x100 ∧ off % 4 = 0)) →
      s.access (s.writeOf off v) = { s with resp := some .ack }) ∧
    (∀ addr width, s.access ⟨.fetch, addr, width⟩ = s.access ⟨.read, addr, width⟩) ∧
    (∀ kind off width, off < 0x200 → width ≠ 32 ∨ off % 4 ≠ 0 →
      s.access ⟨kind, s.params.base + off, width⟩ = { s with resp := some .busError })

/-- The return from an error (R287): a STATUS write with bit 2 set and bit 1 clear sets ERR, ERRCODE and ERRCMD to 0 together
and leaves DONE alone; the commands written while ERR = 1 were ignored. -/
def Obligations.ReturnFromError : Prop :=
  ∀ s : State,
    (∀ v : Word, v.getLsbD 2 = true → v.getLsbD 1 = false →
      s.access (s.writeOf 0x00C v) =
        { s with err := false, errCode := .none, errCmd := 0, resp := some .ack }) ∧
    (s.err = true → ∀ w : Word, s.access (s.writeOf 0x010 w) = { s with resp := some .ack })

/-- CTRL and the interrupt (R57, R290, R291): IRQ is IE and (DONE or ERR); CTRL reads IE in bit 0 and zeros; a write without
SRST stores bit 0 as IE and changes nothing else, whether or not BUSY = 1; IRQ is 0 after IE is cleared, and after DONE
and ERR are both cleared. -/
def Obligations.InterruptAndCtrl : Prop :=
  ∀ s : State,
    (s.irq = true ↔ s.ie = true ∧ (s.done = true ∨ s.err = true)) ∧
    s.access (s.readOf 0x008) = { s with resp := some (.data (if s.ie then 1 else 0)) } ∧
    (∀ v : Word, v.getLsbD 1 = false →
      s.access (s.writeOf 0x008 v) = { s with ie := v.getLsbD 0, resp := some .ack }) ∧
    (∀ v : Word, v.getLsbD 1 = false → v.getLsbD 0 = false → (s.access (s.writeOf 0x008 v)).irq = false) ∧
    (∀ v : Word, v.getLsbD 1 = true → v.getLsbD 2 = true → (s.access (s.writeOf 0x00C v)).irq = false)

/-- While one command stays in flight its operands stand as at its acceptance (R65, R62): no step that leaves a command in
flight, where one was, changes the command word, a register, a choice bit, the configuration, LOCKED, a byte of BUF,
RESLEN or the instance. -/
def Obligations.BusyKeepsOperands : Prop :=
  ∀ (s t : State) (c c' : InFlight), step s = .next t → s.inflight = some c → t.inflight = some c' →
    c'.word = c.word ∧ t.fRegs = s.fRegs ∧ t.sRegs = s.sRegs ∧ t.qRegs = s.qRegs ∧ t.aRegs = s.aRegs ∧
    t.kBits = s.kBits ∧ t.cfg = s.cfg ∧ t.locked = s.locked ∧ t.buf = s.buf ∧ t.resLen = s.resLen ∧ t.params = s.params

/-- The latency an accepted command gets is a function of its word and the public state (R340): two states that agree on
LOCKED, the instance and the configuration but for FLAGS give it the same latency, whatever their registers, choice bits
and buffer, except that PDEC may look at its tag byte where its earlier checks pass, CFGW and CFGLOCK at FLAGS, and CFGW at
the bytes it stores where its checks pass: a command that fails looks at no other byte. -/
def Obligations.LatencyIgnoresSecrets : Prop :=
  ∀ (s t : State) (w : Word), SamePublic s t → s.err = false → t.err = false → s.busy = false → t.busy = false →
    (∀ rg kd off len, decode w = .instr (.pdec rg kd off len) → s.locked = true → off + len ≤ 256 → len ≠ 0 →
      s.buf.read off = t.buf.read off) →
    (∀ slot off len, decode w = .instr (.cfgw slot off len) →
      s.cfg = t.cfg ∧ (s.locked = false → off + len ≤ 256 → (slotLenRange s.params slot).1 ≤ len →
        len ≤ (slotLenRange s.params slot).2 → ∀ k, k < len → s.buf.read (off + k) = t.buf.read (off + k))) →
    (decode w = .instr .cfglock → s.cfg = t.cfg) →
    (s.access (s.writeOf 0x010 w)).inflight = (t.access (t.writeOf 0x010 w)).inflight

/-! ### Element commands -/

/-- FADD, SADD, FMUL, SMUL, FSQR, SSQR (R112, R115, R116): the sum, product or square of the operands' values, reduced; the
destination may be a source. -/
def Obligations.SumProductResults : Prop :=
  ∀ (s : State) (rd ra rb : EReg), s.locked = true →
    exec (.fadd rd ra rb) s = .next { s with
      fRegs := s.fRegs.set rd ((s.elem .field ra + s.elem .field rb) % s.cfg.p), done := true, inflight := none } ∧
    exec (.sadd rd ra rb) s = .next { s with
      sRegs := s.sRegs.set rd ((s.elem .scalar ra + s.elem .scalar rb) % s.cfg.n), done := true, inflight := none } ∧
    exec (.fmul rd ra rb) s = .next { s with
      fRegs := s.fRegs.set rd ((s.elem .field ra * s.elem .field rb) % s.cfg.p), done := true, inflight := none } ∧
    exec (.smul rd ra rb) s = .next { s with
      sRegs := s.sRegs.set rd ((s.elem .scalar ra * s.elem .scalar rb) % s.cfg.n), done := true, inflight := none } ∧
    exec (.fsqr rd ra) s = .next { s with
      fRegs := s.fRegs.set rd ((s.elem .field ra * s.elem .field ra) % s.cfg.p), done := true, inflight := none } ∧
    exec (.ssqr rd ra) s = .next { s with
      sRegs := s.sRegs.set rd ((s.elem .scalar ra * s.elem .scalar ra) % s.cfg.n), done := true, inflight := none }

/-- FSUB, SSUB, FNEG, SNEG (R113, R114): the least non-negative residue of the integer difference or negative. -/
def Obligations.DifferenceResults : Prop :=
  ∀ (s : State) (rd ra rb : EReg), Inv s → s.locked = true →
    exec (.fsub rd ra rb) s = .next { s with
      fRegs := s.fRegs.set rd (((s.elem .field ra : Int) - s.elem .field rb) % s.cfg.p).toNat,
      done := true, inflight := none } ∧
    exec (.ssub rd ra rb) s = .next { s with
      sRegs := s.sRegs.set rd (((s.elem .scalar ra : Int) - s.elem .scalar rb) % s.cfg.n).toNat,
      done := true, inflight := none } ∧
    exec (.fneg rd ra) s = .next { s with
      fRegs := s.fRegs.set rd ((-(s.elem .field ra : Int)) % s.cfg.p).toNat, done := true, inflight := none } ∧
    exec (.sneg rd ra) s = .next { s with
      sRegs := s.sRegs.set rd ((-(s.elem .scalar ra : Int)) % s.cfg.n).toNat, done := true, inflight := none }

/-- The Montgomery arithmetic inside the core computes the plain modular results (R24): under a locked configuration, for both
moduli, conversion in gives v·R mod M, conversion out undoes it, and the product of two representatives, by the word-serial
reduction with the configured constants, is the representative of the product. -/
def Obligations.MontgomeryRefinement : Prop :=
  ∀ s : State, Inv s → s.locked = true →
    let w := s.params.limb.bits
    let limbs := s.cfg.limbs s.params
    let radix := s.cfg.radix s.params
    (∀ u v, u < s.cfg.p → v < s.cfg.p →
      toMont w s.cfg.p s.cfg.pinv limbs s.cfg.r2p v = v * radix % s.cfg.p ∧
      fromMont w s.cfg.p s.cfg.pinv limbs (v * radix % s.cfg.p) = v ∧
      montMul w s.cfg.p s.cfg.pinv limbs (u * radix % s.cfg.p) (v * radix % s.cfg.p) =
        (u * v % s.cfg.p) * radix % s.cfg.p) ∧
    (∀ u v, u < s.cfg.n → v < s.cfg.n →
      toMont w s.cfg.n s.cfg.ninv limbs s.cfg.r2n v = v * radix % s.cfg.n ∧
      fromMont w s.cfg.n s.cfg.ninv limbs (v * radix % s.cfg.n) = v ∧
      montMul w s.cfg.n s.cfg.ninv limbs (u * radix % s.cfg.n) (v * radix % s.cfg.n) =
        (u * v % s.cfg.n) * radix % s.cfg.n)

/-- FINV and SINV (R117, R284, D10). Under a sound configuration zero gives 0 with K = 0 and any other value its inverse with
K = 1. Under any configuration, sound or not (U3), the command completes with a value of the range and a validity, and nothing
else of the core changes. That a value drawn with validity 0 is written as 0 is the model's deduction (log entry 9). -/
def Obligations.InverseResults : Prop :=
  ∀ (s : State) (rd ra : EReg) (kd : KReg), Inv s → s.locked = true →
    (CfgSound s.cfg → s.elem .field ra = 0 → exec (.finv rd kd ra) s = .next { s with
      fRegs := s.fRegs.set rd 0, kBits := s.kBits.set kd false, done := true, inflight := none }) ∧
    (CfgSound s.cfg → s.elem .field ra ≠ 0 →
      ∃ v, v < s.cfg.p ∧ s.elem .field ra * v % s.cfg.p = 1 ∧ exec (.finv rd kd ra) s = .next { s with
        fRegs := s.fRegs.set rd v, kBits := s.kBits.set kd true, done := true, inflight := none }) ∧
    (CfgSound s.cfg → s.elem .scalar ra = 0 → exec (.sinv rd kd ra) s = .next { s with
      sRegs := s.sRegs.set rd 0, kBits := s.kBits.set kd false, done := true, inflight := none }) ∧
    (CfgSound s.cfg → s.elem .scalar ra ≠ 0 →
      ∃ v, v < s.cfg.n ∧ s.elem .scalar ra * v % s.cfg.n = 1 ∧ exec (.sinv rd kd ra) s = .next { s with
        sRegs := s.sRegs.set rd v, kBits := s.kBits.set kd true, done := true, inflight := none }) ∧
    (∃ v b n, v < s.cfg.p ∧ (b = false → v = 0) ∧ exec (.finv rd kd ra) s = .next { s with
      fRegs := s.fRegs.set rd v, kBits := s.kBits.set kd b, draws := n, done := true, inflight := none }) ∧
    (∃ v b n, v < s.cfg.n ∧ (b = false → v = 0) ∧ exec (.sinv rd kd ra) s = .next { s with
      sRegs := s.sRegs.set rd v, kBits := s.kBits.set kd b, draws := n, done := true, inflight := none })

/-- FSQRT and SSQRT (R119, R284, D10). Under a sound configuration: for Mod ≡ 3 (mod 4) the power α^((Mod+1)/4) where it is a
root, and for Mod ≡ 1 (mod 4) the even root where there is one, with K = 1; 0 with K = 0 where α is no square. Under any
configuration, sound or not (U3), the command completes with a value of the range and a validity, and nothing else of the core
changes. That a value drawn with validity 0 is written as 0 is the model's deduction, not U3's words (log entry 9). -/
def Obligations.SquareRootResults : Prop :=
  ∀ (s : State) (rd ra : EReg) (kd : KReg), Inv s → s.locked = true →
    (CfgSound s.cfg → (∃ r, r * r % s.cfg.p = s.elem .field ra) →
      ∃ β, β < s.cfg.p ∧ β * β % s.cfg.p = s.elem .field ra ∧
        (s.cfg.p % 4 = 3 → β = s.elem .field ra ^ ((s.cfg.p + 1) / 4) % s.cfg.p) ∧ (s.cfg.p % 4 = 1 → β % 2 = 0) ∧
        exec (.fsqrt rd kd ra) s = .next { s with
          fRegs := s.fRegs.set rd β, kBits := s.kBits.set kd true, done := true, inflight := none }) ∧
    (CfgSound s.cfg → (∀ r, r * r % s.cfg.p ≠ s.elem .field ra) →
      exec (.fsqrt rd kd ra) s = .next { s with
        fRegs := s.fRegs.set rd 0, kBits := s.kBits.set kd false, done := true, inflight := none }) ∧
    (CfgSound s.cfg → (∃ r, r * r % s.cfg.n = s.elem .scalar ra) →
      ∃ β, β < s.cfg.n ∧ β * β % s.cfg.n = s.elem .scalar ra ∧
        (s.cfg.n % 4 = 3 → β = s.elem .scalar ra ^ ((s.cfg.n + 1) / 4) % s.cfg.n) ∧ (s.cfg.n % 4 = 1 → β % 2 = 0) ∧
        exec (.ssqrt rd kd ra) s = .next { s with
          sRegs := s.sRegs.set rd β, kBits := s.kBits.set kd true, done := true, inflight := none }) ∧
    (CfgSound s.cfg → (∀ r, r * r % s.cfg.n ≠ s.elem .scalar ra) →
      exec (.ssqrt rd kd ra) s = .next { s with
        sRegs := s.sRegs.set rd 0, kBits := s.kBits.set kd false, done := true, inflight := none }) ∧
    (∃ v b n, v < s.cfg.p ∧ (b = false → v = 0) ∧ exec (.fsqrt rd kd ra) s = .next { s with
      fRegs := s.fRegs.set rd v, kBits := s.kBits.set kd b, draws := n, done := true, inflight := none }) ∧
    (∃ v b n, v < s.cfg.n ∧ (b = false → v = 0) ∧ exec (.ssqrt rd kd ra) s = .next { s with
      sRegs := s.sRegs.set rd v, kBits := s.kBits.set kd b, draws := n, done := true, inflight := none })

/-- FNORM, SNORM, FSEL, SSEL, FLDC, SLDC (R120, R121, R126): the copy, the source chosen by the bit, and the constants. -/
def Obligations.ElementMoves : Prop :=
  ∀ (s : State) (rd ra rb : EReg) (ks : KReg), s.locked = true →
    exec (.fnorm rd ra) s = .next { s with fRegs := s.fRegs.set rd (s.elem .field ra), done := true, inflight := none } ∧
    exec (.snorm rd ra) s = .next { s with sRegs := s.sRegs.set rd (s.elem .scalar ra), done := true, inflight := none } ∧
    exec (.fsel rd ra rb ks) s = .next { s with
      fRegs := s.fRegs.set rd (s.elem .field (if s.choice ks then rb else ra)), done := true, inflight := none } ∧
    exec (.ssel rd ra rb ks) s = .next { s with
      sRegs := s.sRegs.set rd (s.elem .scalar (if s.choice ks then rb else ra)), done := true, inflight := none } ∧
    exec (.fldc rd .zero) s = .next { s with fRegs := s.fRegs.set rd 0, done := true, inflight := none } ∧
    exec (.fldc rd .one) s = .next { s with fRegs := s.fRegs.set rd 1, done := true, inflight := none } ∧
    exec (.fldc rd .a) s = .next { s with fRegs := s.fRegs.set rd s.cfg.a, done := true, inflight := none } ∧
    exec (.fldc rd .b) s = .next { s with fRegs := s.fRegs.set rd s.cfg.b, done := true, inflight := none } ∧
    exec (.sldc rd .zero) s = .next { s with sRegs := s.sRegs.set rd 0, done := true, inflight := none } ∧
    exec (.sldc rd .one) s = .next { s with sRegs := s.sRegs.set rd 1, done := true, inflight := none }

/-- FISZ, SISZ, FISODD, SISODD, FEQ, SEQ, SISHIGH (R122 to R125): the choice bit receives the predicate of the canonical values;
nothing else but DONE changes. -/
def Obligations.ElementPredicates : Prop :=
  ∀ (s : State) (kd : KReg) (ra rb : EReg), s.locked = true →
    exec (.fisz kd ra) s = .next { s with
      kBits := s.kBits.set kd (decide (s.elem .field ra = 0)), done := true, inflight := none } ∧
    exec (.sisz kd ra) s = .next { s with
      kBits := s.kBits.set kd (decide (s.elem .scalar ra = 0)), done := true, inflight := none } ∧
    exec (.fisodd kd ra) s = .next { s with
      kBits := s.kBits.set kd (decide (s.elem .field ra % 2 = 1)), done := true, inflight := none } ∧
    exec (.sisodd kd ra) s = .next { s with
      kBits := s.kBits.set kd (decide (s.elem .scalar ra % 2 = 1)), done := true, inflight := none } ∧
    exec (.feq kd ra rb) s = .next { s with
      kBits := s.kBits.set kd (decide (s.elem .field ra = s.elem .field rb)), done := true, inflight := none } ∧
    exec (.seq kd ra rb) s = .next { s with
      kBits := s.kBits.set kd (decide (s.elem .scalar ra = s.elem .scalar rb)), done := true, inflight := none } ∧
    exec (.sishigh kd ra) s = .next { s with
      kBits := s.kBits.set kd (decide ((s.cfg.n - 1) / 2 < s.elem .scalar ra)), done := true, inflight := none }

/-- Of a nonzero scalar and its negative exactly one is high, and a nonzero element and its negative have opposite parity
(R123, R125): SNEG then SISHIGH or SISODD, and FNEG then FISODD, give the opposite bit. -/
def Obligations.NegativeFlipsHighAndParity : Prop :=
  ∀ (s t u v : State) (rd ra : EReg) (kd : KReg), Inv s → s.locked = true →
    (s.elem .scalar ra ≠ 0 → exec (.sishigh kd ra) s = .next t → exec (.sneg rd ra) s = .next u →
      exec (.sishigh kd rd) u = .next v → v.choice kd = !t.choice kd) ∧
    (s.elem .scalar ra ≠ 0 → exec (.sisodd kd ra) s = .next t → exec (.sneg rd ra) s = .next u →
      exec (.sisodd kd rd) u = .next v → v.choice kd = !t.choice kd) ∧
    (s.elem .field ra ≠ 0 → exec (.fisodd kd ra) s = .next t → exec (.fneg rd ra) s = .next u →
      exec (.fisodd kd rd) u = .next v → v.choice kd = !t.choice kd)

/-- FDEC and SDEC (R127, R284): a big-endian value below the modulus is written with K = 1, any other leaves 0 with K = 0. -/
def Obligations.DecodeElementResults : Prop :=
  ∀ (s : State) (rg : EReg) (kd : KReg) (off : Nat), s.locked = true → off + s.cfg.eb ≤ 256 →
    (beValue (s.buf.readBytes off s.cfg.eb) < s.cfg.p → exec (.fdec rg kd off s.cfg.eb) s = .next { s with
      fRegs := s.fRegs.set rg (beValue (s.buf.readBytes off s.cfg.eb)), kBits := s.kBits.set kd true, done := true,
      inflight := none }) ∧
    (s.cfg.p ≤ beValue (s.buf.readBytes off s.cfg.eb) → exec (.fdec rg kd off s.cfg.eb) s = .next { s with
      fRegs := s.fRegs.set rg 0, kBits := s.kBits.set kd false, done := true, inflight := none }) ∧
    (beValue (s.buf.readBytes off s.cfg.eb) < s.cfg.n → exec (.sdec rg kd off s.cfg.eb) s = .next { s with
      sRegs := s.sRegs.set rg (beValue (s.buf.readBytes off s.cfg.eb)), kBits := s.kBits.set kd true, done := true,
      inflight := none }) ∧
    (s.cfg.n ≤ beValue (s.buf.readBytes off s.cfg.eb) → exec (.sdec rg kd off s.cfg.eb) s = .next { s with
      sRegs := s.sRegs.set rg 0, kBits := s.kBits.set kd false, done := true, inflight := none })

/-- FENC and SENC (R128): the EB bytes at OFF are then the big-endian string of the value, every other byte is as before, and
RESLEN is EB; decoding them with FDEC or SDEC gives the value back with K = 1. -/
def Obligations.EncodeElementResults : Prop :=
  ∀ (s : State) (rg : EReg) (off : Nat), Inv s → s.locked = true → off + s.cfg.eb ≤ 256 →
    (∃ m, exec (.fenc rg off s.cfg.eb) s = .next { s with
        buf := m, resLen := BitVec.ofNat 8 s.cfg.eb, done := true, inflight := none } ∧
      beValue (m.readBytes off s.cfg.eb) = s.elem .field rg ∧
      ∀ a, a < off ∨ off + s.cfg.eb ≤ a → m.read a = s.buf.read a) ∧
    (∃ m, exec (.senc rg off s.cfg.eb) s = .next { s with
        buf := m, resLen := BitVec.ofNat 8 s.cfg.eb, done := true, inflight := none } ∧
      beValue (m.readBytes off s.cfg.eb) = s.elem .scalar rg ∧
      ∀ a, a < off ∨ off + s.cfg.eb ≤ a → m.read a = s.buf.read a) ∧
    (∀ (rd : EReg) (kd : KReg),
      (∃ t u, exec (.fenc rg off s.cfg.eb) s = .next t ∧ exec (.fdec rd kd off s.cfg.eb) t = .next u ∧
        u.elem .field rd = s.elem .field rg ∧ u.choice kd = true) ∧
      (∃ t u, exec (.senc rg off s.cfg.eb) s = .next t ∧ exec (.sdec rd kd off s.cfg.eb) t = .next u ∧
        u.elem .scalar rd = s.elem .scalar rg ∧ u.choice kd = true))

/-- SRED and SREDNZ (R129, R130): the big-endian value of LEN bytes reduced into [0, N), and into [1, N). -/
def Obligations.WideReductionResults : Prop :=
  ∀ (s : State) (rg : EReg) (off len : Nat), s.locked = true → off + len ≤ 256 → 1 ≤ len → len ≤ 2 * s.cfg.eb →
    exec (.sred rg off len) s = .next { s with
      sRegs := s.sRegs.set rg (beValue (s.buf.readBytes off len) % s.cfg.n), done := true, inflight := none } ∧
    exec (.srednz rg off len) s = .next { s with
      sRegs := s.sRegs.set rg (beValue (s.buf.readBytes off len) % (s.cfg.n - 1) + 1), done := true,
      inflight := none } ∧
    (Inv s → 1 ≤ beValue (s.buf.readBytes off len) % (s.cfg.n - 1) + 1 ∧
      beValue (s.buf.readBytes off len) % (s.cfg.n - 1) + 1 < s.cfg.n)

/-! ### Affine commands -/

/-- ALDI, ALDG, ANEG, ASEL, AGET (R171, R172, R173, R176, R177). -/
def Obligations.AffineMoves : Prop :=
  ∀ (s : State) (rd ra rb : PReg) (r : EReg) (ks : KReg), Inv s → s.locked = true →
    exec (.aldi rd) s = .next { s with aRegs := s.aRegs.set rd ⟨0, 0, true⟩, done := true, inflight := none } ∧
    exec (.aldg rd) s = .next { s with
      aRegs := s.aRegs.set rd ⟨s.cfg.gx, s.cfg.gy, false⟩, done := true, inflight := none } ∧
    exec (.aneg rd ra) s = .next { s with
      aRegs := s.aRegs.set rd ⟨(s.affine ra).x, ((-((s.affine ra).y : Int)) % s.cfg.p).toNat, (s.affine ra).inf⟩,
      done := true, inflight := none } ∧
    exec (.asel rd ra rb ks) s = .next { s with
      aRegs := s.aRegs.set rd (s.affine (if s.choice ks then rb else ra)), done := true, inflight := none } ∧
    exec (.aget r ra .x) s = .next { s with fRegs := s.fRegs.set r (s.affine ra).x, done := true, inflight := none } ∧
    exec (.aget r ra .y) s = .next { s with fRegs := s.fRegs.set r (s.affine ra).y, done := true, inflight := none }

/-- AONC, AISID, ASET (R170, R174, R175, R178, R284): on-curve and identity predicates, and the point that is built only where
the coordinates satisfy the curve equation. -/
def Obligations.AffineChecks : Prop :=
  ∀ (s : State) (rd ra : PReg) (kd : KReg) (fa fb : EReg), s.locked = true →
    exec (.aonc kd ra) s = .next { s with
      kBits := s.kBits.set kd (decide ((s.affine ra).inf = true ∨
        (s.affine ra).y ^ 2 % s.cfg.p = ((s.affine ra).x ^ 3 + s.cfg.a * (s.affine ra).x + s.cfg.b) % s.cfg.p)),
      done := true, inflight := none } ∧
    exec (.aisid kd ra) s = .next { s with kBits := s.kBits.set kd (s.affine ra).inf, done := true, inflight := none } ∧
    (s.elem .field fb ^ 2 % s.cfg.p =
        (s.elem .field fa ^ 3 + s.cfg.a * s.elem .field fa + s.cfg.b) % s.cfg.p →
      exec (.aset rd kd fa fb) s = .next { s with
        aRegs := s.aRegs.set rd ⟨s.elem .field fa, s.elem .field fb, false⟩, kBits := s.kBits.set kd true, done := true,
        inflight := none }) ∧
    (s.elem .field fb ^ 2 % s.cfg.p ≠
        (s.elem .field fa ^ 3 + s.cfg.a * s.elem .field fa + s.cfg.b) % s.cfg.p →
      exec (.aset rd kd fa fb) s = .next { s with
        aRegs := s.aRegs.set rd ⟨0, 0, true⟩, kBits := s.kBits.set kd false, done := true, inflight := none })

/-! ### Projective commands -/

/-- PNEG, PFROMA, PSEL, PLDI (R203, R206, R207, R210). -/
def Obligations.ProjectiveMoves : Prop :=
  ∀ (s : State) (rd ra rb : PReg) (ks : KReg), Inv s → s.locked = true →
    exec (.pneg rd ra) s = .next { s with
      qRegs := s.qRegs.set rd ⟨(s.proj ra).x, ((-((s.proj ra).y : Int)) % s.cfg.p).toNat, (s.proj ra).z⟩, done := true,
      inflight := none } ∧
    ((s.affine ra).inf = false → exec (.pfroma rd ra) s = .next { s with
      qRegs := s.qRegs.set rd ⟨(s.affine ra).x, (s.affine ra).y, 1⟩, done := true, inflight := none }) ∧
    ((s.affine ra).inf = true → exec (.pfroma rd ra) s = .next { s with
      qRegs := s.qRegs.set rd ⟨0, 1, 0⟩, done := true, inflight := none }) ∧
    exec (.psel rd ra rb ks) s = .next { s with
      qRegs := s.qRegs.set rd (s.proj (if s.choice ks then rb else ra)), done := true, inflight := none } ∧
    exec (.pldi rd) s = .next { s with qRegs := s.qRegs.set rd ⟨0, 1, 0⟩, done := true, inflight := none }

/-- PTOAFF (R205, R284, R26), under any configuration: Z = 0 gives the identity sentinel; a Z with an inverse gives the quotients
by it, and a curve point for a triple on the curve; a nonzero Z without an inverse gives the products with some value of the
range, a free one. That the value is free only in this last case is the model's deduction: U3 does not list PTOAFF, and D10
speaks of INV (log entry 8). -/
def Obligations.ToAffineResults : Prop :=
  ∀ (s : State) (rd ra : PReg), Inv s → s.locked = true →
    ((s.proj ra).z = 0 → exec (.ptoaff rd ra) s = .next { s with
      aRegs := s.aRegs.set rd ⟨0, 0, true⟩, done := true, inflight := none }) ∧
    ((s.proj ra).z ≠ 0 → Nat.gcd (s.proj ra).z s.cfg.p = 1 →
      ∃ x y, x < s.cfg.p ∧ y < s.cfg.p ∧ x * (s.proj ra).z % s.cfg.p = (s.proj ra).x ∧
        y * (s.proj ra).z % s.cfg.p = (s.proj ra).y ∧
        (OnProjCurve s.cfg (s.proj ra) → OnAffineCurve s.cfg ⟨x, y, false⟩) ∧
        exec (.ptoaff rd ra) s = .next { s with
          aRegs := s.aRegs.set rd ⟨x, y, false⟩, done := true, inflight := none }) ∧
    ((s.proj ra).z ≠ 0 → Nat.gcd (s.proj ra).z s.cfg.p ≠ 1 →
      ∃ v, v < s.cfg.p ∧ exec (.ptoaff rd ra) s = .next { s with
        aRegs := s.aRegs.set rd ⟨(s.proj ra).x * v % s.cfg.p, (s.proj ra).y * v % s.cfg.p, false⟩,
        draws := s.draws + 1, done := true, inflight := none })

/-- PISID and PEQ (R208, R209): the identity test, the test by cross-multiplication, and that for valid triples over a prime
field the latter is 1 exactly when both denote the same point. -/
def Obligations.PointPredicates : Prop :=
  (∀ (s : State) (kd : KReg) (ra rb : PReg), s.locked = true →
    exec (.pisid kd ra) s = .next { s with
      kBits := s.kBits.set kd (decide ((s.proj ra).z = 0)), done := true, inflight := none } ∧
    exec (.peq kd ra rb) s = .next { s with
      kBits := s.kBits.set kd
        (decide ((s.proj ra).x * (s.proj rb).z % s.cfg.p = (s.proj rb).x * (s.proj ra).z % s.cfg.p ∧
          (s.proj ra).y * (s.proj rb).z % s.cfg.p = (s.proj rb).y * (s.proj ra).z % s.cfg.p)),
      done := true, inflight := none }) ∧
  (∀ (s t : State) (kd : KReg) (ra rb : PReg) (A B : (curveOf s.cfg).Point), Inv s → s.locked = true →
    s.cfg.p.Prime → ValidTriple s.cfg (s.proj ra) → ValidTriple s.cfg (s.proj rb) →
    DenotesPoint s.cfg (s.proj ra) A → DenotesPoint s.cfg (s.proj rb) B → exec (.peq kd ra rb) s = .next t →
    (t.choice kd = true ↔ A = B))

/-- PADD and PADDM as expressions (R191 to R194, R196, R197, R200, R201): with the configured a and b, the triple written is
congruent, coordinate by coordinate, to the complete sum's polynomials, whichever variant is selected; PADDM takes Z2 = 1, and
keeps the triple where the affine operand is the identity. -/
def Obligations.AdditionFormulaResults : Prop :=
  ∀ (s : State) (rd ra rb : PReg), Inv s → s.locked = true →
    let sum (q1 q2 : Proj) : Int × Int × Int :=
      let a : Int := s.cfg.a
      let b : Int := s.cfg.b
      let x1 : Int := q1.x
      let y1 : Int := q1.y
      let z1 : Int := q1.z
      let x2 : Int := q2.x
      let y2 : Int := q2.y
      let z2 : Int := q2.z
      let xy := x1 * y2 + x2 * y1
      let yz := y1 * z2 + y2 * z1
      let xz := x1 * z2 + x2 * z1
      let m := y1 * y2 - a * xz - 3 * b * (z1 * z2)
      let p := y1 * y2 + a * xz + 3 * b * (z1 * z2)
      let k := a * (x1 * x2) + 3 * b * xz - a * a * (z1 * z2)
      let l := 3 * (x1 * x2) + a * (z1 * z2)
      (xy * m - yz * k, l * k + p * m, yz * p + xy * l)
    let red (e : Int × Int × Int) : Proj :=
      ⟨(e.1 % s.cfg.p).toNat, (e.2.1 % s.cfg.p).toNat, (e.2.2 % s.cfg.p).toNat⟩
    exec (.padd rd ra rb) s = .next { s with
      qRegs := s.qRegs.set rd (red (sum (s.proj ra) (s.proj rb))), done := true, inflight := none } ∧
    ((s.affine rb).inf = false → exec (.paddm rd ra rb) s = .next { s with
      qRegs := s.qRegs.set rd (red (sum (s.proj ra) ⟨(s.affine rb).x, (s.affine rb).y, 1⟩)), done := true,
      inflight := none }) ∧
    ((s.affine rb).inf = true → exec (.paddm rd ra rb) s = .next { s with
      qRegs := s.qRegs.set rd (s.proj ra), done := true, inflight := none })

/-- PDBL and PMUL as expressions (R191, R195, R198, R202, R204): the doubling's polynomials, whichever variant is selected; and
PMUL writes a canonical triple, which for the identity base (0, 1, 0) is (0, 1, 0). -/
def Obligations.DoublingFormulaResults : Prop :=
  ∀ (s : State) (rd ra : PReg) (rb : EReg), Inv s → s.locked = true →
    let a : Int := s.cfg.a
    let b : Int := s.cfg.b
    let x : Int := (s.proj ra).x
    let y : Int := (s.proj ra).y
    let z : Int := (s.proj ra).z
    let m := y * y - 2 * a * (x * z) - 3 * b * (z * z)
    let p := y * y + 2 * a * (x * z) + 3 * b * (z * z)
    let k := a * (x * x - a * (z * z)) + 6 * b * (x * z)
    exec (.pdbl rd ra) s = .next { s with
      qRegs := s.qRegs.set rd
        ⟨((2 * (x * y) * m - 2 * (y * z) * k) % s.cfg.p).toNat,
         ((p * m + (3 * (x * x) + a * (z * z)) * k) % s.cfg.p).toNat,
         ((8 * (y * y * y) * z) % s.cfg.p).toNat⟩,
      done := true, inflight := none } ∧
    (∃ r, r.x < s.cfg.p ∧ r.y < s.cfg.p ∧ r.z < s.cfg.p ∧ exec (.pmul rd ra rb) s = .next { s with
      qRegs := s.qRegs.set rd r, done := true, inflight := none }) ∧
    (s.proj ra = ⟨0, 1, 0⟩ → exec (.pmul rd ra rb) s = .next { s with
      qRegs := s.qRegs.set rd ⟨0, 1, 0⟩, done := true, inflight := none })

/-- The two variants are value-equivalent on every input where a = −3 (R192): under A = P − 3, PADD, PADDM, PDBL and PMUL
write the same triple with FLAGS = 0 and with FLAGS = 1. -/
def Obligations.VariantsAgree : Prop :=
  ∀ (s : State) (rd ra rb : PReg) (k : EReg), Inv s → s.locked = true → s.cfg.a = s.cfg.p - 3 →
    ∀ i ∈ [Instr.padd rd ra rb, .paddm rd ra rb, .pdbl rd ra, .pmul rd ra k],
      ∃ r, exec i { s with cfg := { s.cfg with flags := 0 } } = .next { s with
          cfg := { s.cfg with flags := 0 }, qRegs := s.qRegs.set rd r, done := true, inflight := none } ∧
        exec i { s with cfg := { s.cfg with flags := 1 } } = .next { s with
          cfg := { s.cfg with flags := 1 }, qRegs := s.qRegs.set rd r, done := true, inflight := none }

/-- Every valid triple denotes exactly one point of the curve, and so does every affine register value that R26 allows
(R190, R26); the identity triple denotes zero. -/
def Obligations.PointsAreDenoted : Prop :=
  ∀ s : State, Inv s → s.locked = true → s.cfg.p.Prime →
    (∀ q, ValidTriple s.cfg q → ∃! A : (curveOf s.cfg).Point, DenotesPoint s.cfg q A) ∧
    (∀ a, OnAffineCurve s.cfg a → ∃! A : (curveOf s.cfg).Point, AffineDenotes s.cfg a A) ∧
    DenotesPoint s.cfg ⟨0, 1, 0⟩ .zero

/-- PADD is the group law (R199, R200): under a sound configuration, for every pair of valid triples and either variant, the
triple written is valid and denotes the sum of the points. -/
def Obligations.PaddIsGroupAddition : Prop :=
  ∀ (s : State) [Fact s.cfg.p.Prime] (rd ra rb : PReg) (A B : (curveOf s.cfg).Point), Inv s → s.locked = true →
    CfgSound s.cfg → ValidTriple s.cfg (s.proj ra) → ValidTriple s.cfg (s.proj rb) →
    DenotesPoint s.cfg (s.proj ra) A → DenotesPoint s.cfg (s.proj rb) B →
    ∃ r, ValidTriple s.cfg r ∧ DenotesPoint s.cfg r (A + B) ∧
      exec (.padd rd ra rb) s = .next { s with qRegs := s.qRegs.set rd r, done := true, inflight := none }

/-- PADDM, PDBL, PNEG and the conversions are the group's operations (R199, R201 to R203, R205, R206): under a sound configuration
and for valid operands they write valid values that denote the sum, the double, the negative and the same point. -/
def Obligations.PointCommandsAreGroupOperations : Prop :=
  ∀ (s : State) [Fact s.cfg.p.Prime] (rd ra rb : PReg) (A B : (curveOf s.cfg).Point), Inv s → s.locked = true →
    CfgSound s.cfg → ValidTriple s.cfg (s.proj ra) → OnAffineCurve s.cfg (s.affine rb) →
    DenotesPoint s.cfg (s.proj ra) A → AffineDenotes s.cfg (s.affine rb) B →
    (∃ r, ValidTriple s.cfg r ∧ DenotesPoint s.cfg r (A + B) ∧
      exec (.paddm rd ra rb) s = .next { s with qRegs := s.qRegs.set rd r, done := true, inflight := none }) ∧
    (∃ r, ValidTriple s.cfg r ∧ DenotesPoint s.cfg r (A + A) ∧
      exec (.pdbl rd ra) s = .next { s with qRegs := s.qRegs.set rd r, done := true, inflight := none }) ∧
    (∃ r, ValidTriple s.cfg r ∧ DenotesPoint s.cfg r (-A) ∧
      exec (.pneg rd ra) s = .next { s with qRegs := s.qRegs.set rd r, done := true, inflight := none }) ∧
    (∃ a, OnAffineCurve s.cfg a ∧ AffineDenotes s.cfg a A ∧
      exec (.ptoaff rd ra) s = .next { s with aRegs := s.aRegs.set rd a, done := true, inflight := none }) ∧
    (∃ r, ValidTriple s.cfg r ∧ DenotesPoint s.cfg r B ∧
      exec (.pfroma rd rb) s = .next { s with qRegs := s.qRegs.set rd r, done := true, inflight := none })

/-- PMUL is scalar multiplication (R204): under a sound configuration and for a valid base, the triple written is valid and denotes
k times the point, for every scalar register value k. -/
def Obligations.PmulIsScalarMultiple : Prop :=
  ∀ (s : State) [Fact s.cfg.p.Prime] (rd ra : PReg) (rb : EReg) (A : (curveOf s.cfg).Point), Inv s → s.locked = true →
    CfgSound s.cfg → ValidTriple s.cfg (s.proj ra) → DenotesPoint s.cfg (s.proj ra) A →
    ∃ r, ValidTriple s.cfg r ∧ DenotesPoint s.cfg r (s.elem .scalar rb • A) ∧
      exec (.pmul rd ra rb) s = .next { s with qRegs := s.qRegs.set rd r, done := true, inflight := none }

/-! ### SEC1 codec -/

/-- PENC (R240, R241): by form, the tag byte and the big-endian coordinates stand at OFF, every byte outside the encoding is as
before, RESLEN is its length, and K is 0 only for the compact form of a point whose y is the larger root. -/
def Obligations.PencResults : Prop :=
  ∀ (s : State) (rg : PReg) (kd : KReg) (off : Nat) (form : Form), Inv s → s.locked = true →
    off + formExtent s.cfg.eb form ≤ 256 →
    let a := s.affine rg
    let eb := s.cfg.eb
    let n := if a.inf then 1 else formExtent eb form
    ∃ m, exec (.penc rg kd off form) s = .next { s with
        buf := m, resLen := BitVec.ofNat 8 n,
        kBits := s.kBits.set kd (decide (form ≠ .compact ∨ a.inf = true ∨ a.y ≤ s.cfg.p - a.y)), done := true,
        inflight := none } ∧
      (∀ o, o < off ∨ off + n ≤ o → m.read o = s.buf.read o) ∧
      (a.inf = true → m.read off = 0x00) ∧
      (a.inf = false → beValue (m.readBytes (off + 1) eb) = a.x) ∧
      (a.inf = false → form = .compressed → m.read off = if a.y % 2 = 0 then 0x02 else 0x03) ∧
      (a.inf = false → form = .uncompressed →
        m.read off = 0x04 ∧ beValue (m.readBytes (off + 1 + eb) eb) = a.y) ∧
      (a.inf = false → form = .compact → m.read off = 0x05)

/-- PDEC of the identity and of the uncompressed form (R242, R284): the identity with K = 1; the point where both coordinates are
in range and satisfy the curve equation, with K = 1, and otherwise the identity with K = 0. -/
def Obligations.PdecUncompressedResults : Prop :=
  ∀ (s : State) (rg : PReg) (kd : KReg) (off : Nat), s.locked = true →
    (off + 1 ≤ 256 → s.buf.read off = 0x00 → exec (.pdec rg kd off 1) s = .next { s with
      aRegs := s.aRegs.set rg ⟨0, 0, true⟩, kBits := s.kBits.set kd true, done := true, inflight := none }) ∧
    (off + (1 + 2 * s.cfg.eb) ≤ 256 → s.buf.read off = 0x04 →
      let x := beValue (s.buf.readBytes (off + 1) s.cfg.eb)
      let y := beValue (s.buf.readBytes (off + 1 + s.cfg.eb) s.cfg.eb)
      (x < s.cfg.p ∧ y < s.cfg.p ∧ y ^ 2 % s.cfg.p = (x ^ 3 + s.cfg.a * x + s.cfg.b) % s.cfg.p →
        exec (.pdec rg kd off (1 + 2 * s.cfg.eb)) s = .next { s with
          aRegs := s.aRegs.set rg ⟨x, y, false⟩, kBits := s.kBits.set kd true, done := true, inflight := none }) ∧
      (¬(x < s.cfg.p ∧ y < s.cfg.p ∧ y ^ 2 % s.cfg.p = (x ^ 3 + s.cfg.a * x + s.cfg.b) % s.cfg.p) →
        exec (.pdec rg kd off (1 + 2 * s.cfg.eb)) s = .next { s with
          aRegs := s.aRegs.set rg ⟨0, 0, true⟩, kBits := s.kBits.set kd false, done := true, inflight := none }))

/-- PDEC of the compressed and compact forms under a sound configuration (R242, R243, R284; D10): where x is in range and has a
root, the point with the root of the tag's parity, or the smaller root, and K = 1; otherwise the identity with K = 0. -/
def Obligations.PdecCompressedResults : Prop :=
  ∀ (s : State) (rg : PReg) (kd : KReg) (off : Nat), Inv s → s.locked = true → CfgSound s.cfg →
    off + (1 + s.cfg.eb) ≤ 256 → s.buf.read off ∈ [0x02, 0x03, 0x05] →
    let x := beValue (s.buf.readBytes (off + 1) s.cfg.eb)
    let root (y : Nat) : Prop := y < s.cfg.p ∧ y ^ 2 % s.cfg.p = (x ^ 3 + s.cfg.a * x + s.cfg.b) % s.cfg.p
    (x < s.cfg.p → (∃ y, root y) →
      ∃ y, root y ∧ (s.buf.read off = 0x02 → y % 2 = 0) ∧ (s.buf.read off = 0x03 → y % 2 = 1 ∨ y = 0) ∧
        (s.buf.read off = 0x05 → y ≤ s.cfg.p - y) ∧
        exec (.pdec rg kd off (1 + s.cfg.eb)) s = .next { s with
          aRegs := s.aRegs.set rg ⟨x, y, false⟩, kBits := s.kBits.set kd true, done := true, inflight := none }) ∧
    (s.cfg.p ≤ x ∨ (∀ y, ¬root y) →
      exec (.pdec rg kd off (1 + s.cfg.eb)) s = .next { s with
        aRegs := s.aRegs.set rg ⟨0, 0, true⟩, kBits := s.kBits.set kd false, done := true, inflight := none })

/-- The SEC1 round trips (R244), under a sound configuration. PENC then PDEC of the bytes written gives the value back with K = 1,
and its negative where the compact encoding gave K = 0. PDEC with K = 1 then PENC in the form of the tag, at the same place,
leaves every byte as it was, RESLEN at the length decoded, and K = 1. -/
def Obligations.PointRoundTrip : Prop :=
  (∀ (s : State) (ra rd : PReg) (kd kd' : KReg) (off : Nat) (form : Form), Inv s → s.locked = true → CfgSound s.cfg →
    OnAffineCurve s.cfg (s.affine ra) → off + formExtent s.cfg.eb form ≤ 256 →
    ∃ t u, exec (.penc ra kd off form) s = .next t ∧ exec (.pdec rd kd' off t.resLen.toNat) t = .next u ∧
      u.choice kd' = true ∧ (form ≠ .compact → t.choice kd = true) ∧
      u.affine rd = if t.choice kd then s.affine ra
        else ⟨(s.affine ra).x, s.cfg.p - (s.affine ra).y, false⟩) ∧
  (∀ (s t : State) (rd : PReg) (kd kd' : KReg) (off len : Nat) (form : Form), Inv s → s.locked = true →
    CfgSound s.cfg → s.err = false → exec (.pdec rd kd off len) s = .next t → t.err = false → t.choice kd = true →
    (s.buf.read off ∈ [0x02, 0x03] → form = .compressed) → (s.buf.read off = 0x04 → form = .uncompressed) →
    (s.buf.read off = 0x05 → form = .compact) → off + formExtent s.cfg.eb form ≤ 256 →
    ∃ u, exec (.penc rd kd' off form) t = .next u ∧ (∀ o, u.buf.read o = s.buf.read o) ∧ u.resLen.toNat = len ∧
      u.choice kd' = true)

/-! ### Configuration and choice bits -/

/-- NOP, CFGW and CFGLOCK (R260, R261, R262): NOP changes nothing but DONE in every state; CFGW writes the big-endian value of its
bytes to its slot and to no other; CFGLOCK sets LOCKED where the eleven checks of R261 hold, and raises CFGCHECK where one does not.
That it locks also over a slot never written, where the 0 it holds passes the checks, is the model's deduction (log entry 18). -/
def Obligations.ConfigurationResults : Prop :=
  ∀ s : State,
    exec .nop s = .next { s with done := true, inflight := none } ∧
    (∀ slot off len, s.locked = false → off + len ≤ 256 → (slotLenRange s.params slot).1 ≤ len →
      len ≤ (slotLenRange s.params slot).2 →
      ∃ c, exec (.cfgw slot off len) s = .next { s with cfg := c, done := true, inflight := none } ∧
        c.get slot = beValue (s.buf.readBytes off len) ∧ ∀ other, other ≠ slot → c.get other = s.cfg.get other) ∧
    (∀ l m3 p n a b gx gy r2p r2n pinv ninv : Nat, s.locked = false →
      s.cfg = ⟨l, m3, p, n, a, b, gx, gy, r2p, r2n, pinv, ninv⟩ →
      let w := s.params.limb.bits
      let radix := 2 ^ (w * ((l + w - 1) / w))
      let ok : Prop :=
        (3 ≤ l ∧ l ≤ 576) ∧ (m3 = 0 ∨ m3 = 1) ∧ (p % 2 = 1 ∧ 2 ^ (l - 1) ≤ p ∧ p < 2 ^ l) ∧
        (n % 2 = 1 ∧ 2 ^ (l - 1) ≤ n ∧ n < 2 ^ l) ∧ (a < p ∧ b < p ∧ gx < p ∧ gy < p) ∧ (m3 = 0 ∨ a = p - 3) ∧
        (4 * a ^ 3 + 27 * b ^ 2) % p ≠ 0 ∧ gy ^ 2 % p = (gx ^ 3 + a * gx + b) % p ∧
        (r2p = radix ^ 2 % p ∧ r2n = radix ^ 2 % n) ∧ (pinv < 2 ^ w ∧ (p * pinv + 1) % 2 ^ w = 0) ∧
        (ninv < 2 ^ w ∧ (n * ninv + 1) % 2 ^ w = 0)
      (ok → exec .cfglock s = .next { s with locked := true, done := true, inflight := none }) ∧
      (¬ok → s.err = false → exec .cfglock s = .next (s.failed .cfglock .cfgcheck)))

/-- The choice-bit group (R263 to R269), in every state, locked or not. -/
def Obligations.ChoiceBitResults : Prop :=
  ∀ (s : State) (kd ka kb : KReg),
    exec (.kmov kd ka) s = .next { s with kBits := s.kBits.set kd (s.choice ka), done := true, inflight := none } ∧
    exec (.knot kd ka) s = .next { s with kBits := s.kBits.set kd (!s.choice ka), done := true, inflight := none } ∧
    exec (.kand kd ka kb) s = .next { s with
      kBits := s.kBits.set kd (s.choice ka && s.choice kb), done := true, inflight := none } ∧
    exec (.kor kd ka kb) s = .next { s with
      kBits := s.kBits.set kd (s.choice ka || s.choice kb), done := true, inflight := none } ∧
    exec (.kxor kd ka kb) s = .next { s with
      kBits := s.kBits.set kd (xor (s.choice ka) (s.choice kb)), done := true, inflight := none } ∧
    exec (.kclr kd) s = .next { s with kBits := s.kBits.set kd false, done := true, inflight := none } ∧
    exec (.kset kd) s = .next { s with kBits := s.kBits.set kd true, done := true, inflight := none }
end

