-- ==== Sys2Proof/Laws/Modular.lean ====
section
/-! SUPPORT. What each operation of modular arithmetic gives: ranges, the integer it stands for, powers, the inverse,
and what `isPrime` says. -/

namespace Sys2Proof.Machine

theorem addMod_lt {m : Nat} (h : 0 < m) (u v : Nat) : addMod m u v < m := Nat.mod_lt _ h
theorem subMod_lt {m : Nat} (h : 0 < m) (u v : Nat) : subMod m u v < m := Nat.mod_lt _ h
theorem mulMod_lt {m : Nat} (h : 0 < m) (u v : Nat) : mulMod m u v < m := Nat.mod_lt _ h
theorem negMod_lt {m : Nat} (h : 0 < m) (v : Nat) : negMod m v < m := subMod_lt h 0 v

/-- subMod is the least non-negative residue of the integer difference (R8). -/
theorem subMod_eq_int {m : Nat} (h : 0 < m) (u v : Nat) : (subMod m u v : Int) = ((u : Int) - v) % m := by
  have hv : v % m < m := Nat.mod_lt _ h
  rw [subMod, Int.natCast_mod, Int.natCast_add, Int.natCast_sub hv.le, Int.natCast_mod]
  rw [show (u : Int) + ((m : Int) - (v : Int) % m) = (u - v % m) + m * 1 by ring, Int.add_mul_emod_self_left]
  rw [Int.sub_emod, Int.emod_emod_of_dvd _ (dvd_refl _), ← Int.sub_emod]

theorem cast_addMod (m u v : Nat) : ((addMod m u v : Nat) : ZMod m) = u + v := by
  simp [addMod, ZMod.natCast_mod]

theorem cast_mulMod (m u v : Nat) : ((mulMod m u v : Nat) : ZMod m) = u * v := by
  simp [mulMod, ZMod.natCast_mod]

theorem cast_subMod {m : Nat} (h : 0 < m) (u v : Nat) : ((subMod m u v : Nat) : ZMod m) = u - v := by
  have hv : v % m ≤ m := (Nat.mod_lt _ h).le
  simp [subMod, ZMod.natCast_mod, Nat.cast_sub hv, sub_eq_add_neg]

theorem powModFuel_eq (m fuel b e : Nat) (h : e < 2 ^ fuel) : powModFuel m fuel b e = b ^ e % m := by
  induction fuel generalizing b e with
  | zero => rw [show e = 0 by simpa using h]; rfl
  | succ fuel ih =>
    have hd : e / 2 < 2 ^ fuel := by rw [pow_succ] at h; omega
    have he : e = 2 * (e / 2) + e % 2 := by omega
    have hp : (b * b % m) ^ (e / 2) % m = b ^ (2 * (e / 2)) % m := by rw [← Nat.pow_mod, ← pow_two, ← pow_mul]
    simp only [powModFuel, ih _ _ hd, hp]
    split_ifs with h1
    · conv_rhs => rw [he, h1, pow_succ, mul_comm]
      rw [Nat.mul_mod, Nat.mod_mod, ← Nat.mul_mod]
    · conv_rhs => rw [he, show e % 2 = 0 by omega]
      simp

/-- powMod is the power it is named after. -/
theorem powMod_eq (m b e : Nat) : powMod m b e = b ^ e % m := by
  rw [powMod, powModFuel_eq _ _ _ _ Nat.lt_log2_self, ← Nat.pow_mod]

/-- The extended Euclidean algorithm keeps r ≡ t·a (mod m) and ends in the greatest common divisor. -/
theorem euclid_spec {m : Nat} (hm : 0 < m) (a : Nat) (fuel r0 r1 t0 t1 : Nat) (hf : r1 < fuel)
    (h0 : (r0 : ZMod m) = t0 * a) (h1 : (r1 : ZMod m) = t1 * a) :
    (euclid m fuel r0 r1 t0 t1).1 = Nat.gcd r0 r1 ∧
      (((euclid m fuel r0 r1 t0 t1).1 : Nat) : ZMod m) = (euclid m fuel r0 r1 t0 t1).2 * a := by
  induction fuel generalizing r0 r1 t0 t1 with
  | zero => omega
  | succ fuel ih =>
    rw [euclid]
    by_cases hr : r1 = 0
    · rw [if_pos hr]; exact ⟨by simp [hr], h0⟩
    · rw [if_neg hr]
      have hlt : r0 % r1 < fuel := lt_of_lt_of_le (Nat.mod_lt _ (by omega)) (by omega)
      have hmod : ((r0 % r1 : Nat) : ZMod m) = (subMod m t0 (r0 / r1 * t1) : Nat) * a := by
        have hdm : (r0 : ZMod m) = (r1 : ZMod m) * ((r0 / r1 : Nat) : ZMod m) + ((r0 % r1 : Nat) : ZMod m) := by
          rw [← Nat.cast_mul, ← Nat.cast_add, Nat.div_add_mod]
        rw [cast_subMod hm, Nat.cast_mul]
        linear_combination h0 - hdm - (r0 / r1 : Nat) * h1
      obtain ⟨hg, hc⟩ := ih r1 (r0 % r1) t1 _ hlt h1 hmod
      refine ⟨?_, hc⟩
      rw [hg, Nat.gcd_comm r1, ← Nat.gcd_rec, Nat.gcd_comm]

/-- invMod finds an inverse exactly where gcd(a, m) = 1. -/
theorem invMod_eq_none_iff {m : Nat} (hm : 0 < m) (a : Nat) : invMod m a = none ↔ Nat.gcd m a ≠ 1 := by
  have := (euclid_spec hm a (a + 1) m a 0 1 (by omega) (by simp) (by simp)).1
  simp [invMod, this]

/-- What invMod finds is the inverse, in [0, m). -/
theorem invMod_spec {m : Nat} (hm : 0 < m) {a t : Nat} (h : invMod m a = some t) : t < m ∧ a * t % m = 1 % m := by
  obtain ⟨-, hc⟩ := euclid_spec hm a (a + 1) m a 0 1 (by omega) (by simp) (by simp)
  simp only [invMod] at h
  split_ifs at h with hg
  obtain rfl := Option.some.inj h
  refine ⟨Nat.mod_lt _ hm, ?_⟩
  rw [hg] at hc
  rw [← Nat.ModEq, ← ZMod.natCast_eq_natCast_iff, Nat.cast_mul, ZMod.natCast_mod, mul_comm]
  exact_mod_cast hc.symm

/-- Under a prime modulus every nonzero canonical value has an inverse. -/
theorem invMod_isSome_of_prime {m a : Nat} (hp : m.Prime) (h0 : a ≠ 0) (hlt : a < m) : (invMod m a).isSome := by
  rw [Option.isSome_iff_ne_none, Ne, invMod_eq_none_iff hp.pos, not_not]
  exact hp.coprime_iff_not_dvd.mpr (Nat.not_dvd_of_pos_of_lt (Nat.pos_of_ne_zero h0) hlt)

theorem splitTwos_spec (fuel n : Nat) : n = 2 ^ (splitTwos fuel n).1 * (splitTwos fuel n).2 := by
  induction fuel generalizing n with
  | zero => simp [splitTwos]
  | succ fuel ih =>
    rw [splitTwos]
    by_cases h : n % 2 = 0
    · simp only [h, if_true]
      rw [pow_succ, mul_right_comm, ← ih (n / 2)]; omega
    · simp [h]

/-- In a field, a value with x^(2^n) = 1 is 1, or some earlier square of it is -1. -/
theorem reachesMinusOne_of_prime {m : Nat} (hp : m.Prime) (n x : Nat) (hx : x < m)
    (h : ((x : ZMod m)) ^ 2 ^ n = 1) : x = 1 ∨ reachesMinusOne m n x = true := by
  have : Fact m.Prime := ⟨hp⟩
  have cast_inj : ∀ y, y < m → ((x : ZMod m) = (y : ZMod m)) → x = y := fun y hy hxy => by
    rwa [ZMod.natCast_eq_natCast_iff', Nat.mod_eq_of_lt hx, Nat.mod_eq_of_lt hy] at hxy
  induction n generalizing x with
  | zero => exact .inl (cast_inj 1 hp.one_lt (by simpa using h))
  | succ n ih =>
    have hsq : (((x * x % m : Nat) : ZMod m)) ^ 2 ^ n = 1 := by
      rw [ZMod.natCast_mod, Nat.cast_mul, ← pow_two, ← pow_mul, ← pow_succ']; exact h
    rw [reachesMinusOne, Bool.or_eq_true, beq_iff_eq]
    by_cases h1 : x * x % m = 1
    · have hone : (x : ZMod m) * x = 1 := by
        rw [← Nat.cast_mul, ← ZMod.natCast_mod, h1, Nat.cast_one]
      rcases mul_self_eq_one_iff.mp hone with h2 | h2
      · exact .inl (cast_inj 1 hp.one_lt (by simpa using h2))
      · refine .inr (.inl (cast_inj (m - 1) (by have := hp.pos; omega) ?_))
        rw [h2, Nat.cast_sub hp.one_le]; simp
    · have hlt := Nat.mod_lt (x * x) hp.pos
      rcases ih (x * x % m) hlt hsq (fun y hy hxy => by
        rwa [ZMod.natCast_eq_natCast_iff', Nat.mod_eq_of_lt hlt, Nat.mod_eq_of_lt hy] at hxy) with h2 | h2
      · exact absurd h2 h1
      · exact .inr (.inr h2)

/-- A prime passes the strong test to every base. -/
theorem strongTest_of_prime {m b : Nat} (hp : m.Prime) (hb : b % m ≠ 0) : strongTest m b = true := by
  have : Fact m.Prime := ⟨hp⟩
  have hs := splitTwos_spec (m.log2 + 1) (m - 1)
  rw [strongTest]
  generalize splitTwos (m.log2 + 1) (m - 1) = sq at hs
  obtain ⟨s, q⟩ := sq
  have hb0 : (b : ZMod m) ≠ 0 := by rwa [Ne, ZMod.natCast_eq_zero_iff, Nat.dvd_iff_mod_eq_zero]
  have hfermat : ((powMod m b q : Nat) : ZMod m) ^ 2 ^ s = 1 := by
    rw [powMod_eq, ZMod.natCast_mod, Nat.cast_pow, ← pow_mul, mul_comm q, ← hs]
    exact ZMod.pow_card_sub_one_eq_one hb0
  have hlt : powMod m b q < m := by rw [powMod_eq]; exact Nat.mod_lt _ hp.pos
  simpa using reachesMinusOne_of_prime hp s _ hlt hfermat

/-- Trial division finds no divisor of a prime. -/
theorem noDivisor_of_prime {m : Nat} (hp : m.Prime) (fuel d : Nat) (hd : 2 ≤ d) : noDivisor m fuel d = true := by
  induction fuel generalizing d with
  | zero => rfl
  | succ fuel ih =>
    rw [noDivisor]
    split_ifs with h
    · rfl
    · rw [Bool.and_eq_true, bne_iff_ne]
      refine ⟨fun h0 => ?_, ih (d + 1) (by omega)⟩
      rcases (Nat.dvd_prime hp).1 (Nat.dvd_of_mod_eq_zero h0) with h1 | h1
      · omega
      · subst h1; nlinarith

/-- What trial division finds no divisor of, it has no divisor below its square root. -/
theorem not_dvd_of_noDivisor {m : Nat} (fuel d : Nat) (hf : m < fuel + d) (h : noDivisor m fuel d = true) {k : Nat}
    (hk : d ≤ k) (hkk : k * k ≤ m) : ¬k ∣ m := by
  induction fuel generalizing d with
  | zero => nlinarith
  | succ fuel ih =>
    rw [noDivisor] at h
    split_ifs at h with h1
    · nlinarith
    · rw [Bool.and_eq_true, bne_iff_ne] at h
      rcases hk.eq_or_lt with rfl | hlt
      · exact fun hd => h.1 (Nat.mod_eq_zero_of_dvd hd)
      · exact ih (d + 1) (by omega) h.2 hlt

/-- Every prime passes `isPrime`. -/
theorem isPrime_of_prime {m : Nat} (hp : m.Prime) : isPrime m = true := by
  simp only [isPrime, Bool.and_eq_true, Bool.or_eq_true, decide_eq_true_eq, List.all_eq_true, beq_iff_eq]
  refine ⟨⟨hp.two_le, fun b _ => ?_⟩, .inr (noDivisor_of_prime hp m 2 le_rfl)⟩
  exact or_iff_not_imp_left.2 fun hb => strongTest_of_prime hp hb

/-- What passes `isPrime` lies below the published bound of the strong test, or is prime. -/
theorem prime_of_isPrime {m : Nat} (h : isPrime m = true) : m < strongTestBound ∨ m.Prime := by
  simp only [isPrime, Bool.and_eq_true, Bool.or_eq_true, decide_eq_true_eq] at h
  obtain ⟨⟨h2, -⟩, h | h⟩ := h
  · exact .inl h
  · refine .inr (Nat.prime_def_le_sqrt.2 ⟨h2, fun k hk hs => ?_⟩)
    exact not_dvd_of_noDivisor m 2 (by omega) h hk (Nat.le_sqrt.1 hs)

/-- A root that `sqrtMod` gives is a root, in [0, m). -/
theorem sqrtMod_spec {m α β : Nat} (hm : 0 < m) (h : sqrtMod m α = some β) : β < m ∧ β * β % m = α := by
  have hs : ∀ fuel r, searchEvenRoot m α fuel r = some β → isEvenRoot m α β = true := by
    intro fuel
    induction fuel with
    | zero => intro r h; simp [searchEvenRoot] at h
    | succ fuel ih =>
      intro r h
      rw [searchEvenRoot] at h
      split_ifs at h with h1
      · exact Option.some.inj h ▸ h1
      · exact ih _ h
  have he : isEvenRoot m α β = true → β < m ∧ β * β % m = α := by
    simp only [isEvenRoot, Bool.and_eq_true, decide_eq_true_eq, beq_iff_eq]
    exact fun h => ⟨h.1.1, h.2⟩
  rw [sqrtMod] at h
  split_ifs at h with h3
  · simp only at h
    split_ifs at h with h4
    obtain rfl := Option.some.inj h
    exact ⟨by rw [powMod_eq]; exact Nat.mod_lt _ hm, h4⟩
  · simp only [evenRoot] at h
    generalize rootCandidate m α = c at h
    generalize (if c % 2 = 0 then c else m - c) = r at h
    split_ifs at h with h4 h5
    · exact he (Option.some.inj h ▸ h4)
    · exact he (hs _ _ h)

end Sys2Proof.Machine
end

