-- ==== Sys2Proof/Laws/Memory.lean ====
section
/-! SUPPORT. The buffer: what a read gives after a write, and that every memory operation keeps the canonical form. -/

namespace Sys2Proof.Machine

theorem memory_read_nil (off : Nat) : Memory.read [] off = Memory.unlisted := rfl

theorem memory_read_cons (c : Host.Cell) (m : Memory) (off : Nat) :
    Memory.read (c :: m) off = if c.1 = off then c.2 else Memory.read m off := by
  by_cases h : c.1 = off <;> simp [Memory.read, h]

/-- A memory whose listed offsets all lie above `off` reads there as an unlisted one. -/
theorem memory_read_below {m : Memory} {off : Nat} (h : ∀ c ∈ m, off < c.1) : Memory.read m off = Memory.unlisted := by
  induction m with
  | nil => rfl
  | cons c rest ih =>
    have hc := h c (by simp)
    rw [memory_read_cons, if_neg (by omega)]
    exact ih fun d hd => h d (by simp [hd])

theorem memory_write_cons (c : Host.Cell) (m : Memory) (off : Nat) (v : Byte) :
    Memory.write (c :: m) off v =
      if off < c.1 then (if v = Memory.unlisted then c :: m else (off, v) :: c :: m)
      else if off = c.1 then (if v = Memory.unlisted then m else (off, v) :: m)
      else c :: Memory.write m off v := rfl

/-- A read after a write: the value written at its offset, and every other offset as before. -/
theorem memory_read_write {m : Memory} (h : m.Pairwise (fun c d => c.1 < d.1)) (off a : Nat) (v : Byte) :
    Memory.read (m.write off v) a = if a = off then v else Memory.read m a := by
  induction m with
  | nil =>
    by_cases hv : v = Memory.unlisted <;> by_cases ha : a = off <;>
      simp_all [Memory.write, memory_read_cons, memory_read_nil, eq_comm]
  | cons c rest ih =>
    obtain ⟨hc, hr⟩ := List.pairwise_cons.mp h
    have below : off ≤ c.1 → Memory.read rest off = Memory.unlisted := fun hle =>
      memory_read_below fun d hd => by have := hc d hd; omega
    rw [memory_write_cons, memory_read_cons c rest]
    by_cases h1 : off < c.1
    · have hb := below h1.le
      by_cases hv : v = Memory.unlisted <;> by_cases ha : a = off <;>
        simp only [h1, hv, ha, if_true, if_false, memory_read_cons]
      · rw [if_neg (by omega)]; exact hb
      · rw [if_neg (fun h => ha h.symm)]
    · by_cases h2 : off = c.1
      · have hb := below h2.le
        subst h2
        by_cases hv : v = Memory.unlisted <;> by_cases ha : a = c.1 <;>
          simp [hv, ha, memory_read_cons, hb, eq_comm (a := c.1) (b := a)]
      · simp only [h1, h2, if_false, memory_read_cons, ih hr]
        by_cases hca : c.1 = a
        · rw [if_pos hca, if_neg (by omega), if_pos hca]
        · rw [if_neg hca, if_neg hca]

theorem mem_write {m : Memory} {off : Nat} {v : Byte} {c : Host.Cell} (h : c ∈ m.write off v) :
    c ∈ m ∨ (c = (off, v) ∧ v ≠ Memory.unlisted) := by
  induction m with
  | nil => by_cases hv : v = Memory.unlisted <;> simp_all [Memory.write]
  | cons d rest ih =>
    rw [Memory.write] at h
    split_ifs at h with h1 hv h2 hv
    · exact .inl h
    · rcases List.mem_cons.mp h with rfl | h
      · exact .inr ⟨rfl, hv⟩
      · exact .inl h
    · exact .inl (by simp [h])
    · rcases List.mem_cons.mp h with rfl | h
      · exact .inr ⟨rfl, hv⟩
      · exact .inl (by simp [h])
    · rcases List.mem_cons.mp h with rfl | h
      · exact .inl (by simp)
      · rcases ih h with h | h
        · exact .inl (by simp [h])
        · exact .inr h

/-- A write inside the buffer keeps the canonical form. -/
theorem memory_wf_write {m : Memory} (h : m.wf) {off : Nat} (ho : off < Config.bufSize) (v : Byte) :
    (m.write off v).wf := by
  refine ⟨?_, ?_⟩
  · obtain ⟨hp, -⟩ := h
    induction m with
    | nil => by_cases hv : v = Memory.unlisted <;> simp [Memory.write, hv]
    | cons c rest ih =>
      obtain ⟨hc, hr⟩ := List.pairwise_cons.mp hp
      rw [Memory.write]
      split_ifs with h1 hv h2 hv
      · exact hp
      · refine List.pairwise_cons.mpr ⟨fun d hd => ?_, hp⟩
        rcases List.mem_cons.mp hd with rfl | hd
        · exact h1
        · have := hc d hd; exact h1.trans this
      · exact hr
      · exact List.pairwise_cons.mpr ⟨fun d hd => by have := hc d hd; simpa [h2] using this, hr⟩
      · refine List.pairwise_cons.mpr ⟨fun d hd => ?_, ih hr⟩
        rcases mem_write hd with hd | ⟨rfl, -⟩
        · exact hc d hd
        · show c.1 < off; omega
  · intro c hc
    rcases mem_write hc with hc | ⟨rfl, hv⟩
    · exact h.2 c hc
    · exact ⟨ho, hv⟩

/-- Writing a string that ends inside the buffer keeps the canonical form. -/
theorem memory_wf_writeBytes {m : Memory} (h : m.wf) (off : Nat) (s : List Byte)
    (ho : off + s.length ≤ Config.bufSize) : (m.writeBytes off s).wf := by
  induction s generalizing m off with
  | nil => exact h
  | cons v rest ih =>
    simp only [List.length_cons] at ho
    exact ih (memory_wf_write h (by omega) v) (off + 1) (by omega)

/-- A read after a string is written: the byte of the string inside it, and every other offset as before. -/
theorem memory_read_writeBytes {m : Memory} (h : m.wf) (off : Nat) (s : List Byte)
    (ho : off + s.length ≤ Config.bufSize) (a : Nat) :
    Memory.read (m.writeBytes off s) a = if off ≤ a ∧ a < off + s.length then s.getD (a - off) 0 else m.read a := by
  induction s generalizing m off with
  | nil => rw [if_neg (by simp)]; rfl
  | cons v rest ih =>
    simp only [List.length_cons] at ho ⊢
    rw [Memory.writeBytes, ih (memory_wf_write h (by omega) v) (off + 1) (by omega), memory_read_write h.1]
    by_cases h1 : a = off
    · subst h1; simp
    · by_cases h2 : off ≤ a ∧ a < off + (rest.length + 1)
      · rw [if_pos (by omega), if_pos h2, show a - off = (a - (off + 1)) + 1 by omega]; simp
      · rw [if_neg (by omega), if_neg h1, if_neg h2]

theorem length_readBytes (m : Memory) (off n : Nat) : (m.readBytes off n).length = n := by simp [Memory.readBytes]

/-- Reading back the string that was written gives it. -/
theorem readBytes_writeBytes {m : Memory} (h : m.wf) (off : Nat) (s : List Byte)
    (ho : off + s.length ≤ Config.bufSize) : (m.writeBytes off s).readBytes off s.length = s := by
  apply List.ext_getElem
  · simp [length_readBytes]
  · intro j h1 h2
    simp only [Memory.readBytes, List.getElem_map, List.getElem_range]
    rw [memory_read_writeBytes h off s ho, if_pos (by omega)]
    simp [h2]

theorem length_beBytes (n v : Nat) : (beBytes n v).length = n := by
  induction n generalizing v with
  | zero => rfl
  | succ n ih => simp [beBytes, ih]

theorem beValue_append_singleton (s : List Byte) (b : Byte) : beValue (s ++ [b]) = beValue s * 256 + b.toNat := by
  simp [beValue]

/-- BE(BE_n(v)) = v for v < 256^n (R10). -/
theorem beValue_beBytes (n v : Nat) (h : v < 256 ^ n) : beValue (beBytes n v) = v := by
  induction n generalizing v with
  | zero => simp only [pow_zero] at h; rw [show v = 0 by omega]; rfl
  | succ n ih =>
    rw [beBytes, beValue_append_singleton, ih _ (by rw [pow_succ] at h; omega)]
    simp only [BitVec.toNat_ofNat]
    omega

/-- A byte string of length n denotes an integer below 256^n (R10). -/
theorem beValue_lt (s : List Byte) : beValue s < 256 ^ s.length := by
  induction s using List.reverseRecOn with
  | nil => simp [beValue]
  | append_singleton s b ih =>
    rw [beValue_append_singleton, List.length_append, List.length_singleton, pow_succ]
    have := b.isLt
    omega

/-- The memory of the reset state is in canonical form. -/
theorem reset_memory_wf (p : Params) : (State.resetOf p).buf.wf := by simp [State.resetOf, Memory.wf]

end Sys2Proof.Machine
end

