-- ==== Sys2Proof/Laws/State.lean ====
section
/-! SUPPORT. One lemma for each field of the state under each named update, true by unfolding, so that no later proof
unfolds a record update. -/

namespace Sys2Proof.Machine

variable (s : State)

/-! ### setElem -/

@[simp] theorem setElem_qRegs (d : Dom) (i : EReg) (v : Nat) : (s.setElem d i v).qRegs = s.qRegs := by
  cases d <;> rfl
@[simp] theorem setElem_aRegs (d : Dom) (i : EReg) (v : Nat) : (s.setElem d i v).aRegs = s.aRegs := by
  cases d <;> rfl
@[simp] theorem setElem_kBits (d : Dom) (i : EReg) (v : Nat) : (s.setElem d i v).kBits = s.kBits := by
  cases d <;> rfl
@[simp] theorem setElem_cfg (d : Dom) (i : EReg) (v : Nat) : (s.setElem d i v).cfg = s.cfg := by
  cases d <;> rfl
@[simp] theorem setElem_locked (d : Dom) (i : EReg) (v : Nat) : (s.setElem d i v).locked = s.locked := by
  cases d <;> rfl
@[simp] theorem setElem_buf (d : Dom) (i : EReg) (v : Nat) : (s.setElem d i v).buf = s.buf := by
  cases d <;> rfl
@[simp] theorem setElem_ie (d : Dom) (i : EReg) (v : Nat) : (s.setElem d i v).ie = s.ie := by
  cases d <;> rfl
@[simp] theorem setElem_done (d : Dom) (i : EReg) (v : Nat) : (s.setElem d i v).done = s.done := by
  cases d <;> rfl
@[simp] theorem setElem_err (d : Dom) (i : EReg) (v : Nat) : (s.setElem d i v).err = s.err := by
  cases d <;> rfl
@[simp] theorem setElem_errCode (d : Dom) (i : EReg) (v : Nat) : (s.setElem d i v).errCode = s.errCode := by
  cases d <;> rfl
@[simp] theorem setElem_errCmd (d : Dom) (i : EReg) (v : Nat) : (s.setElem d i v).errCmd = s.errCmd := by
  cases d <;> rfl
@[simp] theorem setElem_resLen (d : Dom) (i : EReg) (v : Nat) : (s.setElem d i v).resLen = s.resLen := by
  cases d <;> rfl
@[simp] theorem setElem_inflight (d : Dom) (i : EReg) (v : Nat) : (s.setElem d i v).inflight = s.inflight := by
  cases d <;> rfl
@[simp] theorem setElem_params (d : Dom) (i : EReg) (v : Nat) : (s.setElem d i v).params = s.params := by
  cases d <;> rfl
@[simp] theorem setElem_events (d : Dom) (i : EReg) (v : Nat) : (s.setElem d i v).events = s.events := by
  cases d <;> rfl
@[simp] theorem setElem_resp (d : Dom) (i : EReg) (v : Nat) : (s.setElem d i v).resp = s.resp := by
  cases d <;> rfl
@[simp] theorem setElem_draws (d : Dom) (i : EReg) (v : Nat) : (s.setElem d i v).draws = s.draws := by
  cases d <;> rfl
@[simp] theorem setElem_field_fRegs (i : EReg) (v : Nat) : (s.setElem .field i v).fRegs = s.fRegs.set i v := rfl
@[simp] theorem setElem_field_sRegs (i : EReg) (v : Nat) : (s.setElem .field i v).sRegs = s.sRegs := rfl
@[simp] theorem setElem_scalar_fRegs (i : EReg) (v : Nat) : (s.setElem .scalar i v).fRegs = s.fRegs := rfl
@[simp] theorem setElem_scalar_sRegs (i : EReg) (v : Nat) : (s.setElem .scalar i v).sRegs = s.sRegs.set i v := rfl

/-! ### setProj -/

@[simp] theorem setProj_fRegs (i : PReg) (q : Proj) : (s.setProj i q).fRegs = s.fRegs := rfl
@[simp] theorem setProj_sRegs (i : PReg) (q : Proj) : (s.setProj i q).sRegs = s.sRegs := rfl
@[simp] theorem setProj_qRegs (i : PReg) (q : Proj) : (s.setProj i q).qRegs = s.qRegs.set i q := rfl
@[simp] theorem setProj_aRegs (i : PReg) (q : Proj) : (s.setProj i q).aRegs = s.aRegs := rfl
@[simp] theorem setProj_kBits (i : PReg) (q : Proj) : (s.setProj i q).kBits = s.kBits := rfl
@[simp] theorem setProj_cfg (i : PReg) (q : Proj) : (s.setProj i q).cfg = s.cfg := rfl
@[simp] theorem setProj_locked (i : PReg) (q : Proj) : (s.setProj i q).locked = s.locked := rfl
@[simp] theorem setProj_buf (i : PReg) (q : Proj) : (s.setProj i q).buf = s.buf := rfl
@[simp] theorem setProj_ie (i : PReg) (q : Proj) : (s.setProj i q).ie = s.ie := rfl
@[simp] theorem setProj_done (i : PReg) (q : Proj) : (s.setProj i q).done = s.done := rfl
@[simp] theorem setProj_err (i : PReg) (q : Proj) : (s.setProj i q).err = s.err := rfl
@[simp] theorem setProj_errCode (i : PReg) (q : Proj) : (s.setProj i q).errCode = s.errCode := rfl
@[simp] theorem setProj_errCmd (i : PReg) (q : Proj) : (s.setProj i q).errCmd = s.errCmd := rfl
@[simp] theorem setProj_resLen (i : PReg) (q : Proj) : (s.setProj i q).resLen = s.resLen := rfl
@[simp] theorem setProj_inflight (i : PReg) (q : Proj) : (s.setProj i q).inflight = s.inflight := rfl
@[simp] theorem setProj_params (i : PReg) (q : Proj) : (s.setProj i q).params = s.params := rfl
@[simp] theorem setProj_events (i : PReg) (q : Proj) : (s.setProj i q).events = s.events := rfl
@[simp] theorem setProj_resp (i : PReg) (q : Proj) : (s.setProj i q).resp = s.resp := rfl
@[simp] theorem setProj_draws (i : PReg) (q : Proj) : (s.setProj i q).draws = s.draws := rfl

/-! ### setAffine -/

@[simp] theorem setAffine_fRegs (i : PReg) (a : Affine) : (s.setAffine i a).fRegs = s.fRegs := rfl
@[simp] theorem setAffine_sRegs (i : PReg) (a : Affine) : (s.setAffine i a).sRegs = s.sRegs := rfl
@[simp] theorem setAffine_qRegs (i : PReg) (a : Affine) : (s.setAffine i a).qRegs = s.qRegs := rfl
@[simp] theorem setAffine_aRegs (i : PReg) (a : Affine) : (s.setAffine i a).aRegs = s.aRegs.set i a := rfl
@[simp] theorem setAffine_kBits (i : PReg) (a : Affine) : (s.setAffine i a).kBits = s.kBits := rfl
@[simp] theorem setAffine_cfg (i : PReg) (a : Affine) : (s.setAffine i a).cfg = s.cfg := rfl
@[simp] theorem setAffine_locked (i : PReg) (a : Affine) : (s.setAffine i a).locked = s.locked := rfl
@[simp] theorem setAffine_buf (i : PReg) (a : Affine) : (s.setAffine i a).buf = s.buf := rfl
@[simp] theorem setAffine_ie (i : PReg) (a : Affine) : (s.setAffine i a).ie = s.ie := rfl
@[simp] theorem setAffine_done (i : PReg) (a : Affine) : (s.setAffine i a).done = s.done := rfl
@[simp] theorem setAffine_err (i : PReg) (a : Affine) : (s.setAffine i a).err = s.err := rfl
@[simp] theorem setAffine_errCode (i : PReg) (a : Affine) : (s.setAffine i a).errCode = s.errCode := rfl
@[simp] theorem setAffine_errCmd (i : PReg) (a : Affine) : (s.setAffine i a).errCmd = s.errCmd := rfl
@[simp] theorem setAffine_resLen (i : PReg) (a : Affine) : (s.setAffine i a).resLen = s.resLen := rfl
@[simp] theorem setAffine_inflight (i : PReg) (a : Affine) : (s.setAffine i a).inflight = s.inflight := rfl
@[simp] theorem setAffine_params (i : PReg) (a : Affine) : (s.setAffine i a).params = s.params := rfl
@[simp] theorem setAffine_events (i : PReg) (a : Affine) : (s.setAffine i a).events = s.events := rfl
@[simp] theorem setAffine_resp (i : PReg) (a : Affine) : (s.setAffine i a).resp = s.resp := rfl
@[simp] theorem setAffine_draws (i : PReg) (a : Affine) : (s.setAffine i a).draws = s.draws := rfl

/-! ### setChoice -/

@[simp] theorem setChoice_fRegs (i : KReg) (b : Bool) : (s.setChoice i b).fRegs = s.fRegs := rfl
@[simp] theorem setChoice_sRegs (i : KReg) (b : Bool) : (s.setChoice i b).sRegs = s.sRegs := rfl
@[simp] theorem setChoice_qRegs (i : KReg) (b : Bool) : (s.setChoice i b).qRegs = s.qRegs := rfl
@[simp] theorem setChoice_aRegs (i : KReg) (b : Bool) : (s.setChoice i b).aRegs = s.aRegs := rfl
@[simp] theorem setChoice_kBits (i : KReg) (b : Bool) : (s.setChoice i b).kBits = s.kBits.set i b := rfl
@[simp] theorem setChoice_cfg (i : KReg) (b : Bool) : (s.setChoice i b).cfg = s.cfg := rfl
@[simp] theorem setChoice_locked (i : KReg) (b : Bool) : (s.setChoice i b).locked = s.locked := rfl
@[simp] theorem setChoice_buf (i : KReg) (b : Bool) : (s.setChoice i b).buf = s.buf := rfl
@[simp] theorem setChoice_ie (i : KReg) (b : Bool) : (s.setChoice i b).ie = s.ie := rfl
@[simp] theorem setChoice_done (i : KReg) (b : Bool) : (s.setChoice i b).done = s.done := rfl
@[simp] theorem setChoice_err (i : KReg) (b : Bool) : (s.setChoice i b).err = s.err := rfl
@[simp] theorem setChoice_errCode (i : KReg) (b : Bool) : (s.setChoice i b).errCode = s.errCode := rfl
@[simp] theorem setChoice_errCmd (i : KReg) (b : Bool) : (s.setChoice i b).errCmd = s.errCmd := rfl
@[simp] theorem setChoice_resLen (i : KReg) (b : Bool) : (s.setChoice i b).resLen = s.resLen := rfl
@[simp] theorem setChoice_inflight (i : KReg) (b : Bool) : (s.setChoice i b).inflight = s.inflight := rfl
@[simp] theorem setChoice_params (i : KReg) (b : Bool) : (s.setChoice i b).params = s.params := rfl
@[simp] theorem setChoice_events (i : KReg) (b : Bool) : (s.setChoice i b).events = s.events := rfl
@[simp] theorem setChoice_resp (i : KReg) (b : Bool) : (s.setChoice i b).resp = s.resp := rfl
@[simp] theorem setChoice_draws (i : KReg) (b : Bool) : (s.setChoice i b).draws = s.draws := rfl

/-! ### complete -/

@[simp] theorem complete_fRegs : (s.complete).fRegs = s.fRegs := rfl
@[simp] theorem complete_sRegs : (s.complete).sRegs = s.sRegs := rfl
@[simp] theorem complete_qRegs : (s.complete).qRegs = s.qRegs := rfl
@[simp] theorem complete_aRegs : (s.complete).aRegs = s.aRegs := rfl
@[simp] theorem complete_kBits : (s.complete).kBits = s.kBits := rfl
@[simp] theorem complete_cfg : (s.complete).cfg = s.cfg := rfl
@[simp] theorem complete_locked : (s.complete).locked = s.locked := rfl
@[simp] theorem complete_buf : (s.complete).buf = s.buf := rfl
@[simp] theorem complete_ie : (s.complete).ie = s.ie := rfl
@[simp] theorem complete_done : (s.complete).done = true := rfl
@[simp] theorem complete_err : (s.complete).err = s.err := rfl
@[simp] theorem complete_errCode : (s.complete).errCode = s.errCode := rfl
@[simp] theorem complete_errCmd : (s.complete).errCmd = s.errCmd := rfl
@[simp] theorem complete_resLen : (s.complete).resLen = s.resLen := rfl
@[simp] theorem complete_inflight : (s.complete).inflight = none := rfl
@[simp] theorem complete_params : (s.complete).params = s.params := rfl
@[simp] theorem complete_events : (s.complete).events = s.events := rfl
@[simp] theorem complete_resp : (s.complete).resp = s.resp := rfl
@[simp] theorem complete_draws : (s.complete).draws = s.draws := rfl

/-! ### retire -/

@[simp] theorem retire_fRegs : (s.retire).fRegs = s.fRegs := rfl
@[simp] theorem retire_sRegs : (s.retire).sRegs = s.sRegs := rfl
@[simp] theorem retire_qRegs : (s.retire).qRegs = s.qRegs := rfl
@[simp] theorem retire_aRegs : (s.retire).aRegs = s.aRegs := rfl
@[simp] theorem retire_kBits : (s.retire).kBits = s.kBits := rfl
@[simp] theorem retire_cfg : (s.retire).cfg = s.cfg := rfl
@[simp] theorem retire_locked : (s.retire).locked = s.locked := rfl
@[simp] theorem retire_buf : (s.retire).buf = s.buf := rfl
@[simp] theorem retire_ie : (s.retire).ie = s.ie := rfl
@[simp] theorem retire_done : (s.retire).done = s.done := rfl
@[simp] theorem retire_err : (s.retire).err = s.err := rfl
@[simp] theorem retire_errCode : (s.retire).errCode = s.errCode := rfl
@[simp] theorem retire_errCmd : (s.retire).errCmd = s.errCmd := rfl
@[simp] theorem retire_resLen : (s.retire).resLen = s.resLen := rfl
@[simp] theorem retire_inflight : (s.retire).inflight = none := rfl
@[simp] theorem retire_params : (s.retire).params = s.params := rfl
@[simp] theorem retire_events : (s.retire).events = s.events := rfl
@[simp] theorem retire_resp : (s.retire).resp = s.resp := rfl
@[simp] theorem retire_draws : (s.retire).draws = s.draws := rfl

/-! ### raiseBusy -/

@[simp] theorem raiseBusy_fRegs (v : Word) : (s.raiseBusy v).fRegs = s.fRegs := rfl
@[simp] theorem raiseBusy_sRegs (v : Word) : (s.raiseBusy v).sRegs = s.sRegs := rfl
@[simp] theorem raiseBusy_qRegs (v : Word) : (s.raiseBusy v).qRegs = s.qRegs := rfl
@[simp] theorem raiseBusy_aRegs (v : Word) : (s.raiseBusy v).aRegs = s.aRegs := rfl
@[simp] theorem raiseBusy_kBits (v : Word) : (s.raiseBusy v).kBits = s.kBits := rfl
@[simp] theorem raiseBusy_cfg (v : Word) : (s.raiseBusy v).cfg = s.cfg := rfl
@[simp] theorem raiseBusy_locked (v : Word) : (s.raiseBusy v).locked = s.locked := rfl
@[simp] theorem raiseBusy_buf (v : Word) : (s.raiseBusy v).buf = s.buf := rfl
@[simp] theorem raiseBusy_ie (v : Word) : (s.raiseBusy v).ie = s.ie := rfl
@[simp] theorem raiseBusy_done (v : Word) : (s.raiseBusy v).done = s.done := rfl
@[simp] theorem raiseBusy_err (v : Word) : (s.raiseBusy v).err = true := rfl
@[simp] theorem raiseBusy_errCode (v : Word) : (s.raiseBusy v).errCode = .busy := rfl
@[simp] theorem raiseBusy_errCmd (v : Word) : (s.raiseBusy v).errCmd = v := rfl
@[simp] theorem raiseBusy_resLen (v : Word) : (s.raiseBusy v).resLen = s.resLen := rfl
@[simp] theorem raiseBusy_inflight (v : Word) : (s.raiseBusy v).inflight = s.inflight := rfl
@[simp] theorem raiseBusy_params (v : Word) : (s.raiseBusy v).params = s.params := rfl
@[simp] theorem raiseBusy_events (v : Word) : (s.raiseBusy v).events = s.events := rfl
@[simp] theorem raiseBusy_resp (v : Word) : (s.raiseBusy v).resp = s.resp := rfl
@[simp] theorem raiseBusy_draws (v : Word) : (s.raiseBusy v).draws = s.draws := rfl

/-! ### clearError -/

@[simp] theorem clearError_fRegs : (s.clearError).fRegs = s.fRegs := rfl
@[simp] theorem clearError_sRegs : (s.clearError).sRegs = s.sRegs := rfl
@[simp] theorem clearError_qRegs : (s.clearError).qRegs = s.qRegs := rfl
@[simp] theorem clearError_aRegs : (s.clearError).aRegs = s.aRegs := rfl
@[simp] theorem clearError_kBits : (s.clearError).kBits = s.kBits := rfl
@[simp] theorem clearError_cfg : (s.clearError).cfg = s.cfg := rfl
@[simp] theorem clearError_locked : (s.clearError).locked = s.locked := rfl
@[simp] theorem clearError_buf : (s.clearError).buf = s.buf := rfl
@[simp] theorem clearError_ie : (s.clearError).ie = s.ie := rfl
@[simp] theorem clearError_done : (s.clearError).done = s.done := rfl
@[simp] theorem clearError_err : (s.clearError).err = false := rfl
@[simp] theorem clearError_errCode : (s.clearError).errCode = .none := rfl
@[simp] theorem clearError_errCmd : (s.clearError).errCmd = 0 := rfl
@[simp] theorem clearError_resLen : (s.clearError).resLen = s.resLen := rfl
@[simp] theorem clearError_inflight : (s.clearError).inflight = s.inflight := rfl
@[simp] theorem clearError_params : (s.clearError).params = s.params := rfl
@[simp] theorem clearError_events : (s.clearError).events = s.events := rfl
@[simp] theorem clearError_resp : (s.clearError).resp = s.resp := rfl
@[simp] theorem clearError_draws : (s.clearError).draws = s.draws := rfl

/-! ### resetCore -/

@[simp] theorem resetCore_fRegs : s.resetCore.fRegs = (State.resetOf s.params).fRegs := rfl
@[simp] theorem resetCore_sRegs : s.resetCore.sRegs = (State.resetOf s.params).sRegs := rfl
@[simp] theorem resetCore_qRegs : s.resetCore.qRegs = (State.resetOf s.params).qRegs := rfl
@[simp] theorem resetCore_aRegs : s.resetCore.aRegs = (State.resetOf s.params).aRegs := rfl
@[simp] theorem resetCore_kBits : s.resetCore.kBits = (State.resetOf s.params).kBits := rfl
@[simp] theorem resetCore_cfg : s.resetCore.cfg = (State.resetOf s.params).cfg := rfl
@[simp] theorem resetCore_locked : s.resetCore.locked = (State.resetOf s.params).locked := rfl
@[simp] theorem resetCore_buf : s.resetCore.buf = (State.resetOf s.params).buf := rfl
@[simp] theorem resetCore_ie : s.resetCore.ie = (State.resetOf s.params).ie := rfl
@[simp] theorem resetCore_done : s.resetCore.done = (State.resetOf s.params).done := rfl
@[simp] theorem resetCore_err : s.resetCore.err = (State.resetOf s.params).err := rfl
@[simp] theorem resetCore_errCode : s.resetCore.errCode = (State.resetOf s.params).errCode := rfl
@[simp] theorem resetCore_errCmd : s.resetCore.errCmd = (State.resetOf s.params).errCmd := rfl
@[simp] theorem resetCore_resLen : s.resetCore.resLen = (State.resetOf s.params).resLen := rfl
@[simp] theorem resetCore_inflight : s.resetCore.inflight = (State.resetOf s.params).inflight := rfl
@[simp] theorem resetCore_params : s.resetCore.params = s.params := rfl
@[simp] theorem resetCore_events : s.resetCore.events = s.events := rfl
@[simp] theorem resetCore_resp : s.resetCore.resp = (State.resetOf s.params).resp := rfl
@[simp] theorem resetCore_draws : s.resetCore.draws = s.draws := rfl

/-! ### The views of a register file after one register is written -/

theorem elem_setElem (d : Dom) (i j : EReg) (v : Nat) :
    (s.setElem d i v).elem d j = if i = j then v else s.elem d j := by
  cases d <;> simp [State.elem, State.setElem, Vector.getElem_set, Fin.ext_iff]

@[simp] theorem elem_setElem_other (i j : EReg) (v : Nat) :
    (s.setElem .field i v).elem .scalar j = s.elem .scalar j ∧
      (s.setElem .scalar i v).elem .field j = s.elem .field j := ⟨rfl, rfl⟩

theorem proj_setProj (i j : PReg) (q : Proj) : (s.setProj i q).proj j = if i = j then q else s.proj j := by
  simp [State.proj, State.setProj, Vector.getElem_set, Fin.ext_iff]

theorem affine_setAffine (i j : PReg) (a : Affine) :
    (s.setAffine i a).affine j = if i = j then a else s.affine j := by
  simp [State.affine, State.setAffine, Vector.getElem_set, Fin.ext_iff]

theorem choice_setChoice (i j : KReg) (b : Bool) : (s.setChoice i b).choice j = if i = j then b else s.choice j := by
  simp [State.choice, State.setChoice, Vector.getElem_set, Fin.ext_iff]

end Sys2Proof.Machine
end

