-- ==== Sys2Proof/Laws/Ops.lean ====
section
/-! SUPPORT. What each shared operation can do, said once: the command wrapper, buffer access, inversion and square
root, the bus, and one step. -/

namespace Sys2Proof.Machine

/-! ### The command wrapper -/

/-- Every meaning is the command wrapper around a rule of its own. -/
theorem exec_is_command (i : Instr) : ∃ rule, ∀ s, exec i s = command i s rule := by
  cases i <;>
    (simp only [exec,
      execNop, execFadd, execSadd, execFsub, execSsub, execFneg, execSneg, execFmul, execSmul, execFsqr,
      execSsqr, execFinv, execSinv, execFsqrt, execSsqrt, execFnorm, execSnorm, execFsel, execSsel, execFisz,
      execSisz, execFisodd, execSisodd, execFeq, execSeq, execSishigh, execFldc, execSldc, execFdec, execSdec,
      execFenc, execSenc, execSred, execSrednz, execPadd, execPaddm, execPdbl, execPneg, execPmul, execPtoaff,
      execPfroma, execPsel, execPisid, execPeq, execPldi, execAldi, execAldg, execAneg, execAonc, execAisid,
      execAsel, execAget, execAset, execPenc, execPdec, execCfgw, execCfglock, execKmov, execKnot, execKand,
      execKor, execKxor, execKclr, execKset]
     exact ⟨_, fun _ => rfl⟩)

theorem command_of_fail {i : Instr} {s : State} {rule : State → Except Fault State} {c : ErrCode}
    (h : checks s (shapeOf i) = some c) : command i s rule = .next (s.raiseError (encode i) c).retire := by
  simp [command, h]

theorem command_of_pass {i : Instr} {s t : State} {rule : State → Except Fault State}
    (h : checks s (shapeOf i) = none) (hr : rule s = .ok t) : command i s rule = .next t.complete := by
  simp [command, h, hr]

/-- What a command can answer: the error effects, or its rule's state, completed. -/
theorem command_cases {i : Instr} {s t : State} {rule : State → Except Fault State} (h : command i s rule = .next t) :
    (∃ c, checks s (shapeOf i) = some c ∧ t = (s.raiseError (encode i) c).retire) ∨
    (checks s (shapeOf i) = none ∧ ∃ u, rule s = .ok u ∧ t = u.complete) := by
  rw [command] at h
  cases hc : checks s (shapeOf i) with
  | some c => exact .inl ⟨c, rfl, by simpa [hc] using h.symm⟩
  | none =>
    cases hr : rule s with
    | ok u => exact .inr ⟨rfl, u, rfl, by simpa [hc, hr] using h.symm⟩
    | error f => simp [hc, hr] at h

/-- Where no error stands, a failing command has the error effects (R282). -/
theorem raiseError_of_clear {s : State} (h : s.err = false) (w : Word) (c : ErrCode) :
    s.raiseError w c = s.errorEffects w c := by
  simp [State.raiseError, h]

/-- Where an error stands, it stays the one described (R288). -/
theorem raiseError_of_standing {s : State} (h : s.err = true) (w : Word) (c : ErrCode) :
    s.raiseError w c = { s with done := true } := by
  simp [State.raiseError, h]

/-- A failing command writes ERR, ERRCODE, ERRCMD and DONE, and nothing else (R282). -/
theorem raiseError_frame (s : State) (w : Word) (c : ErrCode) :
    s.raiseError w c =
      { s with err := true, errCode := (s.raiseError w c).errCode, errCmd := (s.raiseError w c).errCmd,
               done := true } := by
  unfold State.raiseError
  split_ifs with h
  · rw [← h]
  · rfl

/-! ### Buffer access -/

theorem memRead_ok {s : State} {off n : Nat} (h : off + n ≤ Config.bufSize) :
    s.memRead off n = .ok (s.buf.readBytes off n) := by simp [State.memRead, h]

theorem memWrite_ok {s : State} {off : Nat} {bytes : List Byte} (h : off + bytes.length ≤ Config.bufSize) :
    s.memWrite off bytes = .ok { s with buf := s.buf.writeBytes off bytes } := by simp [State.memWrite, h]

/-! ### Inversion and square root -/

/-- A result that may be drawn changes nothing but the count of draws, and that only under an unsound configuration. -/
theorem exactOrDrawn_frame (s : State) (m : Nat) (exact : Unit → Option Nat) :
    ∃ n, (s.exactOrDrawn m exact).2 = { s with draws := n } ∧ (configSound s.cfg = true → n = s.draws) := by
  unfold State.exactOrDrawn
  split_ifs with hp
  · split <;> exact ⟨s.draws, rfl, fun _ => rfl⟩
  · exact ⟨s.draws + 1, rfl, fun h => absurd h hp⟩

/-- A result that may be drawn lies in the range, and is 0 where it is masked-invalid (D14). -/
theorem exactOrDrawn_range {m : Nat} (hm : 0 < m) (s : State) {exact : Unit → Option Nat}
    (he : ∀ v, exact () = some v → v < m) :
    (s.exactOrDrawn m exact).1.1 < m ∧ ((s.exactOrDrawn m exact).1.2 = false → (s.exactOrDrawn m exact).1.1 = 0) := by
  unfold State.exactOrDrawn
  split_ifs with hp
  · split
    · next h => exact ⟨he _ h, by simp⟩
    · exact ⟨hm, fun _ => rfl⟩
  · cases hv : Config.freeValidity s.draws
    · simpa [hv] using hm
    · simpa [hv] using Nat.mod_lt _ hm

/-- Under a sound configuration nothing is drawn. -/
theorem exactOrDrawn_of_sound {s : State} (h : configSound s.cfg = true) (m : Nat) (exact : Unit → Option Nat) :
    s.exactOrDrawn m exact = (((exact ()).getD 0, (exact ()).isSome), s) := by
  rw [State.exactOrDrawn, if_pos h]
  split <;> next h => simp [h]

/-- PTOAFF's inversion draws at most one free value and changes nothing else. -/
theorem inverseOfZ_frame (s : State) (z : Nat) : ∃ n, (s.inverseOfZ z).2 = { s with draws := n } := by
  unfold State.inverseOfZ
  split_ifs
  · exact ⟨s.draws, rfl⟩
  · split
    · exact ⟨s.draws, rfl⟩
    · exact ⟨s.draws + 1, rfl⟩

theorem inverseOfZ_lt {s : State} (hp : 0 < s.cfg.p) (z : Nat) : (s.inverseOfZ z).1 < s.cfg.p := by
  unfold State.inverseOfZ
  split_ifs
  · exact hp
  · split
    · next h => exact (invMod_spec hp h).1
    · exact Nat.mod_lt _ hp

/-- A Z with an inverse is inverted exactly, whether the configuration is sound or not. -/
theorem inverseOfZ_of_coprime {s : State} (hp : 1 < s.cfg.p) {z : Nat} (hz : Nat.gcd z s.cfg.p = 1) :
    (s.inverseOfZ z).2 = s ∧ z * (s.inverseOfZ z).1 % s.cfg.p = 1 := by
  have h0 : z ≠ 0 := by rintro rfl; simp at hz; omega
  cases h : invMod s.cfg.p z with
  | none => exact absurd (Nat.gcd_comm z _ ▸ hz) ((invMod_eq_none_iff (by omega) z).1 h)
  | some v => simpa [State.inverseOfZ, h0, h, Nat.mod_eq_of_lt hp] using (invMod_spec (by omega) h).2

theorem inverse_lt {m : Nat} (hm : 0 < m) (s : State) (x : Nat) : (s.inverse m x).1.1 < m :=
  (exactOrDrawn_range hm s fun _ h => (invMod_spec hm h).1).1

theorem squareRoot_lt {m : Nat} (hm : 0 < m) (s : State) (α : Nat) : (s.squareRoot m α).1.1 < m :=
  (exactOrDrawn_range hm s fun _ h => (sqrtMod_spec hm h).1).1

/-! ### What legal configurations give (R261) -/

theorem legalModulus_spec {l m : Nat} (h : legalModulus l m = true) : m % 2 = 1 ∧ 2 ^ (l - 1) ≤ m ∧ m < 2 ^ l := by
  simpa [legalModulus, and_assoc] using h

/-- The checks of CFGLOCK, one conjunct each. -/
theorem cfgChecks_spec {prm : Params} {c : Cfg} (h : cfgChecks prm c = true) :
    (3 ≤ c.l ∧ c.l ≤ Config.lMax) ∧ c.flags ≤ 1 ∧ legalModulus c.l c.p = true ∧ legalModulus c.l c.n = true ∧
    (c.a < c.p ∧ c.b < c.p ∧ c.gx < c.p ∧ c.gy < c.p) ∧ (c.flags = 0 ∨ c.a = c.p - 3) ∧
    (4 * (c.a * c.a * c.a) + 27 * (c.b * c.b)) % c.p ≠ 0 ∧ onCurve c c.gx c.gy = true ∧
    (legalR2 (c.radix prm) c.p c.r2p = true ∧ legalR2 (c.radix prm) c.n c.r2n = true) ∧
    legalInverse prm.limb.bits c.p c.pinv = true ∧ legalInverse prm.limb.bits c.n c.ninv = true := by
  simpa [cfgChecks, and_assoc] using h

/-- Both moduli of a legal configuration are at least 5. -/
theorem modulus_ge {prm : Params} {c : Cfg} (h : cfgChecks prm c = true) : 5 ≤ c.p ∧ 5 ≤ c.n := by
  obtain ⟨⟨hl, -⟩, -, hp, hn, -⟩ := cfgChecks_spec h
  have h4 : 2 ^ 2 ≤ 2 ^ (c.l - 1) := Nat.pow_le_pow_right (by decide) (by omega)
  have := legalModulus_spec hp
  have := legalModulus_spec hn
  omega

/-- Every address of the window is in it. -/
theorem inWindow_offset (s : State) {off : Nat} (h : off < Config.windowSize) :
    s.inWindow (s.params.base + off) = true := by simp [State.inWindow, h]

/-- BASE is a multiple of 4, so an offset is aligned exactly when its address is. -/
theorem aligned_offset (s : State) (off : Nat) : (s.params.base + off) % 4 = off % 4 := by
  simp [Params.base, Nat.add_mod]

/-! ### Host accesses -/

/-- A host write either clears ERR or leaves a standing error as it is. -/
theorem writeWindow_keeps_error {s : State} (h : s.err = true) (off : Nat) (v : Word) :
    (s.writeWindow off v).err = false ∨
      ((s.writeWindow off v).err = true ∧ (s.writeWindow off v).errCode = s.errCode ∧
        (s.writeWindow off v).errCmd = s.errCmd) := by
  have hc : (s.writeCtrl v).err = false ∨ ((s.writeCtrl v).err = true ∧ (s.writeCtrl v).errCode = s.errCode ∧
      (s.writeCtrl v).errCmd = s.errCmd) := by
    rw [State.writeCtrl]; split_ifs
    · exact .inl rfl
    · exact .inr ⟨h, rfl, rfl⟩
  have hs : (s.writeStatus v).err = false ∨ ((s.writeStatus v).err = true ∧ (s.writeStatus v).errCode = s.errCode ∧
      (s.writeStatus v).errCmd = s.errCmd) := by
    simp only [State.writeStatus]; split_ifs
    all_goals first | exact .inl rfl | exact .inr ⟨h, rfl, rfl⟩
  have hb : (s.writeBuffer (off - 0x100) v).err = true ∧ (s.writeBuffer (off - 0x100) v).errCode = s.errCode ∧
      (s.writeBuffer (off - 0x100) v).errCmd = s.errCmd := by
    simp only [State.writeBuffer, h, if_true]; split_ifs <;> exact ⟨by simp [h], rfl, rfl⟩
  rw [State.writeWindow]
  split_ifs
  · exact hc
  · exact hs
  · simp [State.submit, h]
  · exact .inr hb
  · exact .inr ⟨h, rfl, rfl⟩

/-- A host read changes nothing but the answer and the count of draws. -/
theorem readWindow_frame (s : State) (off : Nat) : ∃ n, (s.readWindow off).2 = { s with draws := n } := by
  simp only [State.readWindow, State.readBuffer]
  split_ifs <;> first | exact ⟨s.draws, rfl⟩ | exact ⟨s.draws + 1, rfl⟩

/-- A host access either clears ERR or leaves a standing error as it is (R288). -/
theorem access_keeps_error {s : State} (h : s.err = true) (a : BusAccess) :
    (s.access a).err = false ∨
      ((s.access a).err = true ∧ (s.access a).errCode = s.errCode ∧ (s.access a).errCmd = s.errCmd) := by
  have hr : ∀ off, s.answerRead off = { s with draws := (s.answerRead off).draws, resp := (s.answerRead off).resp } := by
    intro off
    obtain ⟨n, hn⟩ := readWindow_frame s off
    simp [State.answerRead, hn]
  rw [State.access]
  split_ifs
  · exact .inr ⟨h, rfl, rfl⟩
  · exact .inr ⟨h, rfl, rfl⟩
  · cases a.kind with
    | write v => exact writeWindow_keeps_error h _ v
    | _ => exact .inr (by rw [hr]; exact ⟨h, rfl, rfl⟩)
/-! ### One step -/

/-- What a step that answers a next state did: it completed the command in flight, handled a host access, reset the
core, or let time pass. -/
theorem step_cases {s t : State} (h : step s = .next t) :
    (∃ c, s.inflight = some c ∧ runWord c.word { s with events := s.events.tail } = .next t) ∨
    (∃ a rest, s.events = .access a :: rest ∧ t = State.access { s with events := rest } a) ∨
    (∃ rest, s.events = .hardReset :: rest ∧ t = State.resetCore { s with events := rest }) ∨
    (∃ f, f.isSome = s.inflight.isSome ∧ t = { s with events := s.events.tail, inflight := f }) := by
  have idle : ∀ u : State, u.inflight = s.inflight → u = { s with events := s.events.tail } →
      finish u = .next t → (∃ c, s.inflight = some c ∧ runWord c.word { s with events := s.events.tail } = .next t) ∨
        ∃ f, f.isSome = s.inflight.isSome ∧ t = { s with events := s.events.tail, inflight := f } := by
    rintro u hu rfl hf
    cases hi : s.inflight with
    | some c => exact .inl ⟨c, rfl, by simpa [finish, hi] using hf⟩
    | none =>
      refine .inr ⟨none, rfl, ?_⟩
      have : t = { s with events := s.events.tail } := by simpa [finish, hi, eq_comm] using hf
      rw [this, ← hi]
  cases he : s.events with
  | nil =>
    rw [step, he] at h
    have := idle s rfl (by rw [he, List.tail_nil, ← he]) h
    rw [he] at this
    rcases this with h | h
    · exact .inl h
    · exact .inr (.inr (.inr h))
  | cons e rest =>
    rw [step, he] at h
    have htail : s.events.tail = rest := by rw [he]; rfl
    rw [htail] at idle
    cases e with
    | access a => exact .inr (.inl ⟨a, rest, rfl, by simpa [handle, eq_comm] using h⟩)
    | hardReset => exact .inr (.inr (.inl ⟨rest, rfl, by simpa [handle, eq_comm] using h⟩))
    | wait =>
      rcases idle { s with events := rest } rfl rfl (by simpa [handle] using h) with h | h
      · exact .inl h
      · exact .inr (.inr (.inr h))
    | tick =>
      cases hi : s.inflight with
      | none =>
        refine .inr (.inr (.inr ⟨none, rfl, ?_⟩))
        have : t = { s with events := rest } := by simpa [handle, passTime, hi, eq_comm] using h
        rw [this, ← hi]; rfl
      | some c =>
        by_cases hz : c.left = 0
        · exact .inl ⟨c, rfl, by simpa [handle, passTime, hi, hz] using h⟩
        · refine .inr (.inr (.inr ⟨some { c with left := c.left - 1 }, rfl, ?_⟩))
          simpa [handle, passTime, hi, hz, eq_comm] using h

end Sys2Proof.Machine
end

