-- ==== Sys2Proof/Laws/Curve.lean ====
section
/-! SUPPORT. The six point formulas as polynomials over GF(P), and what the polynomials do on a curve: chord, tangent and
inverse cases, and where the result is finite; the configured curve's points, their number, that none has order two, and that a sound configuration is judged sound. -/

namespace Sys2Proof.Machine

section Polynomials

variable {K : Type} [CommRing K]

/-! ### The complete addition law as three polynomials -/

/-- The X coordinate of the complete sum. -/
def sumX (a b x1 y1 z1 x2 y2 z2 : K) : K :=
  (x1 * y2 + x2 * y1) * (y1 * y2 - a * (x1 * z2 + x2 * z1) - 3 * b * z1 * z2)
    - (y1 * z2 + y2 * z1) * (a * x1 * x2 + 3 * b * (x1 * z2 + x2 * z1) - a ^ 2 * z1 * z2)

/-- The Y coordinate of the complete sum. -/
def sumY (a b x1 y1 z1 x2 y2 z2 : K) : K :=
  (3 * x1 * x2 + a * z1 * z2) * (a * x1 * x2 + 3 * b * (x1 * z2 + x2 * z1) - a ^ 2 * z1 * z2)
    + (y1 * y2 + a * (x1 * z2 + x2 * z1) + 3 * b * z1 * z2) * (y1 * y2 - a * (x1 * z2 + x2 * z1) - 3 * b * z1 * z2)

/-- The Z coordinate of the complete sum. -/
def sumZ (a b x1 y1 z1 x2 y2 z2 : K) : K :=
  (y1 * z2 + y2 * z1) * (y1 * y2 + a * (x1 * z2 + x2 * z1) + 3 * b * z1 * z2)
    + (x1 * y2 + x2 * y1) * (3 * x1 * x2 + a * z1 * z2)

/-- The X coordinate of the doubling. -/
def dblX (a b x y z : K) : K :=
  2 * x * y * (y ^ 2 - 2 * a * x * z - 3 * b * z ^ 2) - 2 * y * z * (a * (x ^ 2 - a * z ^ 2) + 6 * b * x * z)

/-- The Y coordinate of the doubling. -/
def dblY (a b x y z : K) : K :=
  (y ^ 2 - 2 * a * x * z - 3 * b * z ^ 2) * (y ^ 2 + 2 * a * x * z + 3 * b * z ^ 2)
    + (3 * x ^ 2 + a * z ^ 2) * (a * (x ^ 2 - a * z ^ 2) + 6 * b * x * z)

/-- The Z coordinate of the doubling. -/
def dblZ (y z : K) : K := 8 * y ^ 3 * z

/-- The complete sum of a point with itself is its doubling, on the curve. -/
theorem sum_self {a b x y z : K} (h : y ^ 2 * z = x ^ 3 + a * x * z ^ 2 + b * z ^ 3) :
    sumX a b x y z x y z = dblX a b x y z ∧ sumY a b x y z x y z = dblY a b x y z ∧
    sumZ a b x y z x y z = dblZ y z := by
  refine ⟨?_, ?_, ?_⟩
  · simp only [sumX, dblX]; ring
  · simp only [sumY, dblY]; ring
  · simp only [sumZ, dblZ]; linear_combination (-6 * y) * h

/-- The sum with an identity triple (0, Y, 0) is a multiple of the other triple. -/
theorem sum_identity (a b x y z w : K) :
    sumX a b x y z 0 w 0 = y * w ^ 2 * x ∧ sumY a b x y z 0 w 0 = y * w ^ 2 * y ∧
    sumZ a b x y z 0 w 0 = y * w ^ 2 * z := by
  refine ⟨?_, ?_, ?_⟩ <;> simp only [sumX, sumY, sumZ] <;> ring

theorem sum_comm (a b x1 y1 z1 x2 y2 z2 : K) :
    sumX a b x1 y1 z1 x2 y2 z2 = sumX a b x2 y2 z2 x1 y1 z1 ∧ sumY a b x1 y1 z1 x2 y2 z2 = sumY a b x2 y2 z2 x1 y1 z1 ∧
    sumZ a b x1 y1 z1 x2 y2 z2 = sumZ a b x2 y2 z2 x1 y1 z1 := by
  refine ⟨?_, ?_, ?_⟩ <;> simp only [sumX, sumY, sumZ] <;> ring

/-- The sum is homogeneous of degree two in each operand. -/
theorem sum_scale (a b u x1 y1 z1 v x2 y2 z2 : K) :
    sumX a b (u * x1) (u * y1) (u * z1) (v * x2) (v * y2) (v * z2) = (u * v) ^ 2 * sumX a b x1 y1 z1 x2 y2 z2 ∧
    sumY a b (u * x1) (u * y1) (u * z1) (v * x2) (v * y2) (v * z2) = (u * v) ^ 2 * sumY a b x1 y1 z1 x2 y2 z2 ∧
    sumZ a b (u * x1) (u * y1) (u * z1) (v * x2) (v * y2) (v * z2) = (u * v) ^ 2 * sumZ a b x1 y1 z1 x2 y2 z2 := by
  refine ⟨?_, ?_, ?_⟩ <;> simp only [sumX, sumY, sumZ] <;> ring

theorem dbl_scale (a b u x y z : K) :
    dblX a b (u * x) (u * y) (u * z) = u ^ 4 * dblX a b x y z ∧ dblY a b (u * x) (u * y) (u * z) = u ^ 4 * dblY a b x y z ∧
    dblZ (u * y) (u * z) = u ^ 4 * dblZ y z := by
  refine ⟨?_, ?_, ?_⟩ <;> simp only [dblX, dblY, dblZ] <;> ring

end Polynomials

/-! ### What the polynomials do on the curve -/

section Field

variable {K : Type} [Field K]

theorem chord_sum {a b x1 y1 x2 y2 : K} (h1 : y1 ^ 2 = x1 ^ 3 + a * x1 + b) (h2 : y2 ^ 2 = x2 ^ 3 + a * x2 + b)
    (hne : x1 ≠ x2) :
    let l := (y1 - y2) / (x1 - x2)
    sumX a b x1 y1 1 x2 y2 1 = sumZ a b x1 y1 1 x2 y2 1 * (l ^ 2 - x1 - x2) ∧
    sumY a b x1 y1 1 x2 y2 1 = sumZ a b x1 y1 1 x2 y2 1 * (l * (x1 - (l ^ 2 - x1 - x2)) - y1) := by
  have hd : x1 - x2 ≠ 0 := sub_ne_zero.2 hne
  obtain rfl : b = y1 ^ 2 - x1 ^ 3 - a * x1 := by linear_combination -h1
  obtain rfl : a = ((y1 ^ 2 - y2 ^ 2) - (x1 ^ 3 - x2 ^ 3)) / (x1 - x2) := by field_simp; linear_combination h2
  constructor <;> simp only [sumX, sumY, sumZ] <;> field_simp <;> ring

/-- The Z coordinate of a chord sum is the y of the difference of the points, up to a unit: it vanishes only where the
difference has order two. -/
theorem chord_sumZ {a b x1 y1 x2 y2 : K} (h1 : y1 ^ 2 = x1 ^ 3 + a * x1 + b) (h2 : y2 ^ 2 = x2 ^ 3 + a * x2 + b)
    (hne : x1 ≠ x2) :
    let l := (y1 + y2) / (x1 - x2)
    sumZ a b x1 y1 1 x2 y2 1 = (x2 - x1) ^ 3 * (l * (x1 - (l ^ 2 - x1 - x2)) - y1) := by
  have hd : x1 - x2 ≠ 0 := sub_ne_zero.2 hne
  obtain rfl : b = y1 ^ 2 - x1 ^ 3 - a * x1 := by linear_combination -h1
  obtain rfl : a = ((y1 ^ 2 - y2 ^ 2) - (x1 ^ 3 - x2 ^ 3)) / (x1 - x2) := by field_simp; linear_combination h2
  simp only [sumZ]
  field_simp
  ring

/-- The chord point lies on the curve. -/
theorem chord_equation {a b x1 y1 x2 y2 : K} (h1 : y1 ^ 2 = x1 ^ 3 + a * x1 + b)
    (h2 : y2 ^ 2 = x2 ^ 3 + a * x2 + b) (hne : x1 ≠ x2) :
    let l := (y1 - y2) / (x1 - x2)
    let x3 := l ^ 2 - x1 - x2
    (l * (x1 - x3) - y1) ^ 2 = x3 ^ 3 + a * x3 + b := by
  have hd : x1 - x2 ≠ 0 := sub_ne_zero.2 hne
  obtain rfl : b = y1 ^ 2 - x1 ^ 3 - a * x1 := by linear_combination -h1
  obtain rfl : a = ((y1 ^ 2 - y2 ^ 2) - (x1 ^ 3 - x2 ^ 3)) / (x1 - x2) := by field_simp; linear_combination h2
  simp only
  field_simp
  ring

theorem tangent_double {a b x y : K} (h : y ^ 2 = x ^ 3 + a * x + b) (hy : y ≠ 0) (h2 : (2 : K) ≠ 0) :
    let l := (3 * x ^ 2 + a) / (2 * y)
    dblX a b x y 1 = dblZ y 1 * (l ^ 2 - 2 * x) ∧ dblY a b x y 1 = dblZ y 1 * (l * (x - (l ^ 2 - 2 * x)) - y) := by
  obtain rfl : b = y ^ 2 - x ^ 3 - a * x := by linear_combination -h
  constructor <;> simp only [dblX, dblY, dblZ] <;> field_simp <;> ring

/-- The complete sum of a point and its negative: X and Z vanish, and Y is the y of the doubling, up to a unit. -/
theorem sum_neg {a b x y : K} (h : y ^ 2 = x ^ 3 + a * x + b) (hy : y ≠ 0) (h2 : (2 : K) ≠ 0) :
    let l := (3 * x ^ 2 + a) / (2 * y)
    sumX a b x y 1 x (-y) 1 = 0 ∧ sumZ a b x y 1 x (-y) 1 = 0 ∧
    sumY a b x y 1 x (-y) 1 = 8 * y ^ 3 * (l * (x - (l ^ 2 - 2 * x)) - y) := by
  obtain rfl : b = y ^ 2 - x ^ 3 - a * x := by linear_combination -h
  refine ⟨?_, ?_, ?_⟩ <;> simp only [sumX, sumY, sumZ] <;> field_simp <;> ring

/-- The tangent point lies on the curve. -/
theorem tangent_equation {a b x y : K} (h : y ^ 2 = x ^ 3 + a * x + b) (hy : y ≠ 0) (h2 : (2 : K) ≠ 0) :
    let l := (3 * x ^ 2 + a) / (2 * y)
    let x3 := l ^ 2 - 2 * x
    (l * (x - x3) - y) ^ 2 = x3 ^ 3 + a * x3 + b := by
  obtain rfl : b = y ^ 2 - x ^ 3 - a * x := by linear_combination -h
  simp only
  field_simp
  ring

end Field

/-! ### The step lists are the polynomials -/

section Cast

variable {p : Nat} (hp : 0 < p) (a b b3 : Nat) (q1 q2 q : Proj)

include hp

theorem alg1_cast (h3 : (b3 : ZMod p) = 3 * b) :
    let r := alg1 p a b3 q1 q2
    (r.x : ZMod p) = sumX (a : ZMod p) b q1.x q1.y q1.z q2.x q2.y q2.z ∧
    (r.y : ZMod p) = sumY (a : ZMod p) b q1.x q1.y q1.z q2.x q2.y q2.z ∧
    (r.z : ZMod p) = sumZ (a : ZMod p) b q1.x q1.y q1.z q2.x q2.y q2.z := by
  refine ⟨?_, ?_, ?_⟩ <;>
    simp only [alg1, cast_addMod, cast_mulMod, cast_subMod hp, h3, sumX, sumY, sumZ] <;> ring

theorem alg2_cast (h3 : (b3 : ZMod p) = 3 * b) (x y : Nat) :
    let r := alg2 p a b3 q x y
    (r.x : ZMod p) = sumX (a : ZMod p) b q.x q.y q.z x y 1 ∧
    (r.y : ZMod p) = sumY (a : ZMod p) b q.x q.y q.z x y 1 ∧
    (r.z : ZMod p) = sumZ (a : ZMod p) b q.x q.y q.z x y 1 := by
  refine ⟨?_, ?_, ?_⟩ <;>
    simp only [alg2, cast_addMod, cast_mulMod, cast_subMod hp, h3, sumX, sumY, sumZ] <;> ring

theorem alg3_cast (h3 : (b3 : ZMod p) = 3 * b) :
    let r := alg3 p a b3 q
    (r.x : ZMod p) = dblX (a : ZMod p) b q.x q.y q.z ∧
    (r.y : ZMod p) = dblY (a : ZMod p) b q.x q.y q.z ∧
    (r.z : ZMod p) = dblZ (q.y : ZMod p) q.z := by
  refine ⟨?_, ?_, ?_⟩ <;>
    simp only [alg3, cast_addMod, cast_mulMod, cast_subMod hp, h3, dblX, dblY, dblZ] <;> ring

theorem alg4_cast :
    let r := alg4 p b q1 q2
    (r.x : ZMod p) = sumX (-3 : ZMod p) b q1.x q1.y q1.z q2.x q2.y q2.z ∧
    (r.y : ZMod p) = sumY (-3 : ZMod p) b q1.x q1.y q1.z q2.x q2.y q2.z ∧
    (r.z : ZMod p) = sumZ (-3 : ZMod p) b q1.x q1.y q1.z q2.x q2.y q2.z := by
  refine ⟨?_, ?_, ?_⟩ <;>
    simp only [alg4, cast_addMod, cast_mulMod, cast_subMod hp, sumX, sumY, sumZ] <;> ring

theorem alg5_cast (x y : Nat) :
    let r := alg5 p b q x y
    (r.x : ZMod p) = sumX (-3 : ZMod p) b q.x q.y q.z x y 1 ∧
    (r.y : ZMod p) = sumY (-3 : ZMod p) b q.x q.y q.z x y 1 ∧
    (r.z : ZMod p) = sumZ (-3 : ZMod p) b q.x q.y q.z x y 1 := by
  refine ⟨?_, ?_, ?_⟩ <;>
    simp only [alg5, cast_addMod, cast_mulMod, cast_subMod hp, sumX, sumY, sumZ] <;> ring

theorem alg6_cast :
    let r := alg6 p b q
    (r.x : ZMod p) = dblX (-3 : ZMod p) b q.x q.y q.z ∧
    (r.y : ZMod p) = dblY (-3 : ZMod p) b q.x q.y q.z ∧
    (r.z : ZMod p) = dblZ (q.y : ZMod p) q.z := by
  refine ⟨?_, ?_, ?_⟩ <;>
    simp only [alg6, cast_addMod, cast_mulMod, cast_subMod hp, dblX, dblY, dblZ] <;> ring

end Cast

/-! ### The points of the configured curve -/

theorem equation_curveOf (c : Cfg) (x y : ZMod c.p) :
    (curveOf c).Equation x y ↔ y ^ 2 = x ^ 3 + c.a * x + c.b := by
  simp [WeierstrassCurve.Affine.equation_iff, curveOf]

/-- OnCurve of R170 is the curve's equation. -/
theorem onCurve_cast (c : Cfg) (x y : Nat) :
    onCurve c x y = true ↔ (curveOf c).Equation (x : ZMod c.p) (y : ZMod c.p) := by
  rw [equation_curveOf, onCurve, curveRhs, beq_iff_eq, ← Nat.ModEq, ← ZMod.natCast_eq_natCast_iff]
  push_cast
  ring_nf

/-- A legal configuration's curve is non-singular at every point (check 7 of R261). -/
theorem nonsingular_of_equation {prm : Params} {c : Cfg} (h : cfgChecks prm c = true) (hp : c.p.Prime) {x y : ZMod c.p}
    (he : (curveOf c).Equation x y) : (curveOf c).Nonsingular x y := by
  have := Fact.mk hp
  have h5 := (modulus_ge h).1
  have hd := (cfgChecks_spec h).2.2.2.2.2.2.1
  have hd' : (4 * (c.a : ZMod c.p) ^ 3 + 27 * (c.b : ZMod c.p) ^ 2) ≠ 0 := by
    intro h0
    apply hd
    rw [← Nat.dvd_iff_mod_eq_zero, ← ZMod.natCast_eq_zero_iff]
    push_cast
    linear_combination h0
  have h2 : (2 : ZMod c.p) ≠ 0 := by
    intro h0
    have : ((2 : Nat) : ZMod c.p) = 0 := by exact_mod_cast h0
    rw [ZMod.natCast_eq_zero_iff] at this
    exact absurd (Nat.le_of_dvd (by decide) this) (by omega)
  rw [WeierstrassCurve.Affine.nonsingular_iff]
  refine ⟨he, ?_⟩
  rw [equation_curveOf] at he
  by_contra hc
  simp only [curveOf, not_or, not_not] at hc
  obtain ⟨h1, h3⟩ := hc
  have hy : y = 0 := by
    have : 2 * y = 0 := by linear_combination h3
    rcases mul_eq_zero.1 this with h | h
    · exact absurd h h2
    · exact h
  have hx : 3 * x ^ 2 + (c.a : ZMod c.p) = 0 := by linear_combination -h1
  subst hy
  apply hd'
  have ha : (c.a : ZMod c.p) = -3 * x ^ 2 := by linear_combination hx
  have hb : (c.b : ZMod c.p) = 2 * x ^ 3 := by
    have := he; rw [ha] at this; linear_combination -this
  rw [ha, hb]; ring


/-- The points of the curve are the identity and the pairs that pointCount counts. -/
theorem card_points {prm : Params} {c : Cfg} (h : cfgChecks prm c = true) (hp : c.p.Prime) :
    Nat.card (curveOf c).Point = pointCount c := by
  have := Fact.mk hp
  let S := (Finset.range c.p ×ˢ Finset.range c.p).filter (fun xy => onCurve c xy.1 xy.2 = true)
  have hmem : ∀ x y : ZMod c.p, (curveOf c).Equation x y → (x.val, y.val) ∈ S := fun x y he => by
    simp only [S, Finset.mem_filter, Finset.mem_product, Finset.mem_range]
    refine ⟨⟨ZMod.val_lt x, ZMod.val_lt y⟩, ?_⟩
    rw [onCurve_cast]; simpa using he
  let e : (curveOf c).Point ≃ Option S :=
    { toFun := fun P => match P with
        | .zero => none
        | .some x y hn => some ⟨(x.val, y.val), hmem x y hn.1⟩
      invFun := fun o => match o with
        | none => .zero
        | some xy => .some (xy.1.1 : ZMod c.p) (xy.1.2 : ZMod c.p)
            (nonsingular_of_equation h hp ((onCurve_cast c _ _).1 (Finset.mem_filter.1 xy.2).2))
      left_inv := fun P => by cases P <;> simp
      right_inv := fun o => by
        match o with
        | none => rfl
        | some ⟨(x, y), hxy⟩ =>
          have := (Finset.mem_filter.1 hxy).1
          simp only [Finset.mem_product, Finset.mem_range] at this
          simp [ZMod.val_natCast, Nat.mod_eq_of_lt this.1, Nat.mod_eq_of_lt this.2] }
  rw [Nat.card_congr e, Nat.card_eq_fintype_card, Fintype.card_option, Fintype.card_coe, pointCount, Nat.add_comm]

/-- A sound configuration has no point of order two (R199). -/
theorem no_order_two {prm : Params} {c : Cfg} (h : cfgChecks prm c = true) (hs : CfgSound c) (x : ZMod c.p) :
    x ^ 3 + c.a * x + c.b ≠ 0 := by
  have := Fact.mk hs.fieldPrime
  intro h0
  have he : (curveOf c).Equation x 0 := by rw [equation_curveOf, h0]; ring
  let P : (curveOf c).Point := .some x 0 (nonsingular_of_equation h hs.fieldPrime he)
  have h2 : P + P = 0 := by
    apply WeierstrassCurve.Affine.Point.add_of_Y_eq rfl
    simp [WeierstrassCurve.Affine.negY, curveOf]
  have hne : P ≠ 0 := by simp [P]
  have hd : addOrderOf P ∣ 2 := addOrderOf_dvd_of_nsmul_eq_zero (by rw [two_nsmul, h2])
  have hd' : addOrderOf P ∣ c.n := by
    rw [hs.order, ← card_points h hs.fieldPrime]; exact addOrderOf_dvd_natCard P
  have hodd := (legalModulus_spec (cfgChecks_spec h).2.2.2.1).1
  rcases (Nat.dvd_prime Nat.prime_two).1 hd with h1 | h1
  · rw [AddMonoid.addOrderOf_eq_one_iff] at h1; exact hne h1
  · rw [h1] at hd'; omega

/-! ### The decision of soundness (D10) -/

/-- inv_p as the inverse of the field. -/
theorem cast_invMod {p : Nat} [hp : Fact p.Prime] (d : Nat) : (((invMod p d).getD 0 : Nat) : ZMod p) = (d : ZMod p)⁻¹ := by
  cases h : invMod p d with
  | none =>
    have hg := (invMod_eq_none_iff hp.out.pos d).1 h
    have hd : p ∣ d := by
      by_contra hn
      exact hg ((Nat.Prime.coprime_iff_not_dvd hp.out).2 hn)
    simp [(ZMod.natCast_eq_zero_iff d p).2 hd]
  | some t =>
    have ht := (invMod_spec hp.out.pos h).2
    rw [Option.getD_some]
    refine eq_inv_of_mul_eq_one_right ?_
    rw [← Nat.cast_mul, ← Nat.cast_one, ZMod.natCast_eq_natCast_iff]
    exact ht

/-- The affine value denotes the point and has canonical coordinates. -/
def AffineIs (c : Cfg) (a : Affine) (A : (curveOf c).Point) : Prop := AffineDenotes c a A ∧ a.x < c.p ∧ a.y < c.p

theorem affineIs_identity {c : Cfg} (h : 0 < c.p) : AffineIs c Affine.identity .zero := ⟨rfl, h, h⟩

/-- affineSlope is the curve's slope, where the points are not each other's negative. -/
theorem cast_affineSlope {c : Cfg} [hp : Fact c.p.Prime] {q1 q2 : Affine} (h1 : q1.x < c.p) (h2 : q2.x < c.p)
    (hne : ¬((q1.x : ZMod c.p) = q2.x ∧ (q1.y : ZMod c.p) = (curveOf c).negY q2.x q2.y)) :
    (affineSlope c.p c.a q1 q2 : ZMod c.p) = (curveOf c).slope q1.x q2.x q1.y q2.y := by
  rw [affineSlope]
  by_cases hx : q1.x = q2.x
  · have hy : ¬(q1.y : ZMod c.p) = (curveOf c).negY q2.x q2.y := fun h => hne ⟨by rw [hx], h⟩
    rw [if_pos hx, WeierstrassCurve.Affine.slope_of_Y_ne (by rw [hx]) hy, cast_mulMod, cast_invMod, cast_addMod]
    simp [WeierstrassCurve.Affine.negY, curveOf, div_eq_mul_inv, pow_two]
  · have hx' : ¬(q1.x : ZMod c.p) = q2.x := by
      rwa [ZMod.natCast_eq_natCast_iff', Nat.mod_eq_of_lt h1, Nat.mod_eq_of_lt h2]
    rw [if_neg hx, WeierstrassCurve.Affine.slope_of_X_ne hx', cast_mulMod, cast_invMod, cast_subMod hp.out.pos,
      cast_subMod hp.out.pos, div_eq_mul_inv]

/-- affineSum is the curve's addition. -/
theorem affineSum_is {c : Cfg} [hp : Fact c.p.Prime] {q1 q2 : Affine} {A B : (curveOf c).Point} (h1 : AffineIs c q1 A)
    (h2 : AffineIs c q2 B) : AffineIs c (affineSum c.p c.a q1 q2) (A + B) := by
  have hpos := hp.out.pos
  cases A with
  | zero =>
    have hi : q1.inf = true := h1.1
    rw [affineSum, if_pos hi]
    exact (zero_add B).symm ▸ h2
  | some x1 y1 n1 =>
    obtain ⟨⟨hi1, rfl, rfl⟩, hx1, hy1⟩ := h1
    cases B with
    | zero =>
      have hi : q2.inf = true := h2.1
      rw [affineSum, if_neg (by simp [hi1]), if_pos hi]
      exact ⟨⟨hi1, rfl, rfl⟩, hx1, hy1⟩
    | some x2 y2 n2 =>
      obtain ⟨⟨hi2, rfl, rfl⟩, hx2, hy2⟩ := h2
      have inj : ∀ u v : Nat, u < c.p → v < c.p → ((u : ZMod c.p) = v ↔ u = v) := fun u v hu hv => by
        rw [ZMod.natCast_eq_natCast_iff', Nat.mod_eq_of_lt hu, Nat.mod_eq_of_lt hv]
      have hneg : (q1.y : ZMod c.p) = (curveOf c).negY q2.x q2.y ↔ (q1.y + q2.y) % c.p = 0 := by
        rw [← Nat.dvd_iff_mod_eq_zero, ← ZMod.natCast_eq_zero_iff, Nat.cast_add]
        simp [WeierstrassCurve.Affine.negY, curveOf, eq_neg_iff_add_eq_zero]
      rw [affineSum, if_neg (by simp [hi1]), if_neg (by simp [hi2])]
      by_cases hc : q1.x = q2.x ∧ (q1.y + q2.y) % c.p = 0
      · rw [if_pos hc, WeierstrassCurve.Affine.Point.add_of_Y_eq ((inj _ _ hx1 hx2).2 hc.1) (hneg.2 hc.2)]
        exact affineIs_identity hpos
      · rw [if_neg hc]
        have hc' : ¬((q1.x : ZMod c.p) = q2.x ∧ (q1.y : ZMod c.p) = (curveOf c).negY q2.x q2.y) := by
          rwa [inj _ _ hx1 hx2, hneg]
        rw [WeierstrassCurve.Affine.Point.add_some hc']
        have hslope := cast_affineSlope hx1 hx2 hc'
        refine ⟨⟨rfl, ?_, ?_⟩, subMod_lt hpos _ _, subMod_lt hpos _ _⟩
        · rw [← hslope]
          simp only [cast_subMod hpos, Nat.cast_mul, WeierstrassCurve.Affine.addX, curveOf]
          ring
        · rw [← hslope]
          simp only [cast_subMod hpos, Nat.cast_mul, WeierstrassCurve.Affine.addX, WeierstrassCurve.Affine.addY,
            WeierstrassCurve.Affine.negAddY, WeierstrassCurve.Affine.negY, curveOf]
          ring

/-- affineMultiple is the curve's multiple. -/
theorem affineMultiple_is {c : Cfg} [hp : Fact c.p.Prime] (fuel k : Nat) {q : Affine} {A : (curveOf c).Point}
    (hk : k < 2 ^ fuel) (h : AffineIs c q A) : AffineIs c (affineMultiple c.p c.a fuel k q) (k • A) := by
  induction fuel generalizing k q A with
  | zero =>
    obtain rfl : k = 0 := by simpa using hk
    rw [zero_nsmul]; exact affineIs_identity hp.out.pos
  | succ fuel ih =>
    have hd : k / 2 < 2 ^ fuel := by rw [pow_succ] at hk; omega
    have hr := ih (k / 2) hd (affineSum_is h h)
    rw [← two_nsmul, ← mul_nsmul] at hr
    simp only [affineMultiple]
    split_ifs with h1
    · have := affineSum_is h hr
      rwa [← succ_nsmul', show 2 * (k / 2) + 1 = k by omega] at this
    · rwa [show 2 * (k / 2) = k by omega] at hr

/-- Counting the points one column after the other gives their number. -/
theorem countPoints_eq (c : Cfg) : countPoints c = pointCount c := by
  have hcol : ∀ x n, (List.range n).countP (fun y => onCurve c x y) =
      ((Finset.range n).filter fun y => onCurve c x y = true).card := by
    intro x n
    induction n with
    | zero => rfl
    | succ n ih =>
      rw [List.range_succ, List.countP_append, ih, Finset.range_add_one, Finset.filter_insert]
      split_ifs with h <;> simp [h]
  have hsum : ∀ (f : Nat → Nat) n, ((List.range n).map f).sum = ∑ x ∈ Finset.range n, f x := by
    intro f n
    induction n with
    | zero => rfl
    | succ n ih => rw [List.range_succ, List.map_append, List.sum_append, ih, Finset.sum_range_succ]; simp
  rw [countPoints, pointCount, hsum, Finset.card_filter, Finset.sum_product]
  simp only [hcol, Finset.card_filter]

/-- A sound configuration is judged sound, so that under `CfgSound` inverse and square root are the exact values of R117 and
R119. -/
theorem configSound_of_sound {prm : Params} {c : Cfg} (h : cfgChecks prm c = true) (hs : CfgSound c) :
    configSound c = true := by
  have := Fact.mk hs.fieldPrime
  rw [configSound, isPrime_of_prime hs.fieldPrime, isPrime_of_prime hs.orderPrime, orderIsN]
  split_ifs with hw
  · obtain ⟨-, -, -, -, ⟨-, -, hx, hy⟩, -, -, hg, -⟩ := cfgChecks_spec h
    let G : (curveOf c).Point := .some (c.gx : ZMod c.p) (c.gy : ZMod c.p)
      (nonsingular_of_equation h hs.fieldPrime ((onCurve_cast c _ _).1 hg))
    have hm := affineMultiple_is (c.n.log2 + 1) c.n (A := G) (q := ⟨c.gx, c.gy, false⟩) Nat.lt_log2_self
      ⟨⟨rfl, rfl, rfl⟩, hx, hy⟩
    have h0 : c.n • G = 0 := by
      rw [hs.order, ← card_points h hs.fieldPrime]
      exact addOrderOf_dvd_iff_nsmul_eq_zero.1 (addOrderOf_dvd_natCard G)
    rw [h0] at hm
    have hi : (affineMultiple c.p c.a (c.n.log2 + 1) c.n ⟨c.gx, c.gy, false⟩).inf = true := hm.1
    simp [hi]
  · simp [countPoints_eq, ← hs.order]

/-- Under a sound configuration that is legal nothing is drawn. -/
theorem exactOrDrawn_of_cfgSound {s : State} (hi : Inv s) (hl : s.locked = true) (hs : CfgSound s.cfg) (m : Nat)
    (exact : Unit → Option Nat) : s.exactOrDrawn m exact = (((exact ()).getD 0, (exact ()).isSome), s) :=
  exactOrDrawn_of_sound (configSound_of_sound (hi.legalCfg hl) hs) m exact

end Sys2Proof.Machine
end

