-- ==== Sys2Proof/Laws/Encoding.lean ====
section
/-! SUPPORT. Fields of an encoded word: what the mask of a row and the field readers see of a word that is built with
`place`. -/

namespace Sys2Proof

theorem place_getLsbD (lo v k : Nat) :
    (place lo v).getLsbD k = (decide (k < 32) && decide (lo ≤ k) && v.testBit (k - lo)) := by
  simp only [place, BitVec.getLsbD_shiftLeft, BitVec.getLsbD_ofNat]
  by_cases h1 : k < 32 <;> by_cases h2 : k < lo <;> simp [h1, h2, Nat.not_le.mpr, Nat.not_lt.mp]
  intro; omega

theorem or_and_mask (a b m : Word) : (a ||| b) &&& m = (a &&& m) ||| (b &&& m) := by
  ext i; simp [Bool.and_or_distrib_right]

/-- An operand field is no part of its row's mask: `free` says that the mask is clear there. -/
theorem place_and_mask {lo v n : Nat} {m : Word} (hv : v < 2 ^ n) (free : place lo (2 ^ n - 1) &&& m = 0) :
    place lo v &&& m = 0 := by
  apply BitVec.eq_of_getLsbD_eq
  intro k hk
  have hf := congrArg (fun w => w.getLsbD k) free
  simp only [BitVec.getLsbD_and, place_getLsbD] at hf ⊢
  by_cases hlo : lo ≤ k
  · by_cases hn : k - lo < n
    · rw [Nat.testBit_two_pow_sub_one] at hf
      simp only [hk, hlo, hn, decide_true, Bool.true_and] at hf
      simp [hf]
    · have : v.testBit (k - lo) = false :=
        Nat.testBit_lt_two_pow (lt_of_lt_of_le hv (Nat.pow_le_pow_right (by decide) (by omega)))
      simp [this]
  · simp [hlo]

/-- A field reader sees the operand that was placed there. -/
theorem extract_place_same {lo n v : Nat} (h : lo + n ≤ 32) :
    (place lo v).extractLsb' lo n = BitVec.ofNat n v := by
  apply BitVec.eq_of_getLsbD_eq
  intro k hk
  simp only [BitVec.getLsbD_extractLsb', place_getLsbD, BitVec.getLsbD_ofNat]
  simp [hk]; omega

/-- A field reader sees nothing of an operand placed below it. -/
theorem extract_place_below {lo n lo' n' v : Nat} (hv : v < 2 ^ n') (h : lo' + n' ≤ lo) :
    (place lo' v).extractLsb' lo n = 0 := by
  apply BitVec.eq_of_getLsbD_eq
  intro k hk
  have : v.testBit (lo + k - lo') = false :=
    Nat.testBit_lt_two_pow (lt_of_lt_of_le hv (Nat.pow_le_pow_right (by decide) (by omega)))
  simp [BitVec.getLsbD_extractLsb', place_getLsbD, this]

/-- A field reader sees nothing of an operand placed above it. -/
theorem extract_place_above {lo n lo' v : Nat} (h : lo + n ≤ lo') : (place lo' v).extractLsb' lo n = 0 := by
  apply BitVec.eq_of_getLsbD_eq
  intro k hk
  simp only [BitVec.getLsbD_extractLsb', place_getLsbD]
  simp [hk]; omega

/-! ### The operand kinds: 4-bit, 3-bit and 2-bit register indices, and bytes -/

section
variable {lo n lo' : Nat} {m : Word}

theorem mask_ereg (r : EReg) (h : place lo 15 &&& m = 0) : place lo r &&& m = 0 := place_and_mask (n := 4) r.isLt h
theorem mask_preg (r : PReg) (h : place lo 7 &&& m = 0) : place lo r &&& m = 0 := place_and_mask (n := 3) r.isLt h
theorem mask_kreg (r : KReg) (h : place lo 3 &&& m = 0) : place lo r &&& m = 0 := place_and_mask (n := 2) r.isLt h
theorem mask_byte {v : Nat} (hv : v < 256) (h : place lo 255 &&& m = 0) : place lo v &&& m = 0 :=
  place_and_mask (n := 8) hv h

theorem below_ereg (r : EReg) (h : lo' + 4 ≤ lo) : (place lo' r).extractLsb' lo n = 0 :=
  extract_place_below (n' := 4) r.isLt h
theorem below_preg (r : PReg) (h : lo' + 3 ≤ lo) : (place lo' r).extractLsb' lo n = 0 :=
  extract_place_below (n' := 3) r.isLt h
theorem below_kreg (r : KReg) (h : lo' + 2 ≤ lo) : (place lo' r).extractLsb' lo n = 0 :=
  extract_place_below (n' := 2) r.isLt h
theorem below_byte {v : Nat} (hv : v < 256) (h : lo' + 8 ≤ lo) : (place lo' v).extractLsb' lo n = 0 :=
  extract_place_below (n' := 8) hv h

end

theorem toFin_ereg (r : EReg) : (BitVec.ofNat 4 r).toFin = r := Fin.ext (Nat.mod_eq_of_lt r.isLt)
theorem toFin_preg (r : PReg) : (BitVec.ofNat 3 r).toFin = r := Fin.ext (Nat.mod_eq_of_lt r.isLt)
theorem toFin_kreg (r : KReg) : (BitVec.ofNat 2 r).toFin = r := Fin.ext (Nat.mod_eq_of_lt r.isLt)
theorem toNat_byte {v : Nat} (hv : v < 256) : (BitVec.ofNat 8 v).toNat = v := Nat.mod_eq_of_lt hv

/-! ### The selectors -/

theorem lt_fconst (c : FConst) : c.code < 2 ^ 2 := by cases c <;> decide
theorem mask_fconst {lo : Nat} {m : Word} (c : FConst) (h : place lo 3 &&& m = 0) : place lo c.code &&& m = 0 :=
  place_and_mask (lt_fconst c) h
theorem below_fconst {lo n lo' : Nat} (c : FConst) (h : lo' + 2 ≤ lo) : (place lo' c.code).extractLsb' lo n = 0 :=
  extract_place_below (lt_fconst c) h
theorem read_fconst (c : FConst) : fConstOf (c.code % 4) = c := by cases c <;> rfl

theorem lt_sconst (c : SConst) : c.code < 2 ^ 1 := by cases c <;> decide
theorem mask_sconst {lo : Nat} {m : Word} (c : SConst) (h : place lo 1 &&& m = 0) : place lo c.code &&& m = 0 :=
  place_and_mask (lt_sconst c) h
theorem below_sconst {lo n lo' : Nat} (c : SConst) (h : lo' + 1 ≤ lo) : (place lo' c.code).extractLsb' lo n = 0 :=
  extract_place_below (lt_sconst c) h
theorem read_sconst (c : SConst) : sConstOf (c.code % 2) = c := by cases c <;> rfl

theorem lt_coord (c : Coord) : c.code < 2 ^ 1 := by cases c <;> decide
theorem mask_coord {lo : Nat} {m : Word} (c : Coord) (h : place lo 1 &&& m = 0) : place lo c.code &&& m = 0 :=
  place_and_mask (lt_coord c) h
theorem below_coord {lo n lo' : Nat} (c : Coord) (h : lo' + 1 ≤ lo) : (place lo' c.code).extractLsb' lo n = 0 :=
  extract_place_below (lt_coord c) h
theorem read_coord (c : Coord) : coordOf (c.code % 2) = c := by cases c <;> rfl

theorem lt_form (c : Form) : c.code < 2 ^ 2 := by cases c <;> decide
theorem mask_form {lo : Nat} {m : Word} (c : Form) (h : place lo 3 &&& m = 0) : place lo c.code &&& m = 0 :=
  place_and_mask (lt_form c) h
theorem below_form {lo n lo' : Nat} (c : Form) (h : lo' + 2 ≤ lo) : (place lo' c.code).extractLsb' lo n = 0 :=
  extract_place_below (lt_form c) h
theorem read_form (c : Form) : formOf (c.code % 4) = some c := by cases c <;> rfl

theorem lt_slot (c : Slot) : c.code < 2 ^ 4 := by cases c <;> decide
theorem mask_slot {lo : Nat} {m : Word} (c : Slot) (h : place lo 15 &&& m = 0) : place lo c.code &&& m = 0 :=
  place_and_mask (lt_slot c) h
theorem below_slot {lo n lo' : Nat} (c : Slot) (h : lo' + 4 ≤ lo) : (place lo' c.code).extractLsb' lo n = 0 :=
  extract_place_below (lt_slot c) h
theorem read_slot (c : Slot) : slotOf (c.code % 16) = some c := by cases c <;> rfl

theorem fitsByte_iff {v : Nat} : fitsByte v = true ↔ v < 256 := by simp [fitsByte]

end Sys2Proof
end

