-- ==== Sys2Proof/Laws/PerInstr.lean ====
section
/-! SUPPORT. For each command: its encoded word fits its row of the opcode map, and the row reads the command back. -/

namespace Sys2Proof.Laws.EncodingFits

/-- The word of a well-formed instruction fits a row of the opcode map (R84), whose extraction gives the instruction
back (R80, R81). -/
def Statement (i : Instr) : Prop :=
  i.wf = true → ∃ r ∈ opcodeTable, r.fits (encode i) = true ∧ r.build (encode i) = .instr i

/-- A row of the table, by its place, for an instruction whose word has the row's fixed bits and reads back. -/
theorem row_at {i : Instr} (k : Nat) (hk : k < opcodeTable.length)
    (hfit : encode i &&& opcodeTable[k].mask = opcodeTable[k].pat)
    (hread : opcodeTable[k].build (encode i) = .instr i) :
    ∃ r ∈ opcodeTable, r.fits (encode i) = true ∧ r.build (encode i) = .instr i :=
  ⟨opcodeTable[k], List.getElem_mem hk, by simp [Row.fits, hfit], hread⟩

set_option linter.unusedSimpArgs false

theorem nop : Statement (.nop) := by
  intro _
  exact row_at 0 (by decide) (by decide) (by decide)

theorem fadd (rd : EReg) (ra : EReg) (rb : EReg) : Statement (.fadd rd ra rb) := by
  intro _
  refine row_at 1 (by decide)
    (show encode (.fadd rd ra rb) &&& 0xFFF000FF#32 = 0x04000000#32 from ?_)
    (show Decoded.instr (.fadd (eField 16 (encode (.fadd rd ra rb))) (eField 12 (encode (.fadd rd ra rb))) (eField 8 (encode (.fadd rd ra rb)))) = _ from ?_)
  · simp (disch := first | assumption | decide) [encode, or_and_mask, mask_ereg]
  · simp (disch := first | assumption | decide) [encode, BitVec.extractLsb'_or, extract_place_same, extract_place_above, below_ereg, toFin_ereg, eField]

theorem sadd (rd : EReg) (ra : EReg) (rb : EReg) : Statement (.sadd rd ra rb) := by
  intro _
  refine row_at 2 (by decide)
    (show encode (.sadd rd ra rb) &&& 0xFFF000FF#32 = 0x06000000#32 from ?_)
    (show Decoded.instr (.sadd (eField 16 (encode (.sadd rd ra rb))) (eField 12 (encode (.sadd rd ra rb))) (eField 8 (encode (.sadd rd ra rb)))) = _ from ?_)
  · simp (disch := first | assumption | decide) [encode, or_and_mask, mask_ereg]
  · simp (disch := first | assumption | decide) [encode, BitVec.extractLsb'_or, extract_place_same, extract_place_above, below_ereg, toFin_ereg, eField]

theorem fsub (rd : EReg) (ra : EReg) (rb : EReg) : Statement (.fsub rd ra rb) := by
  intro _
  refine row_at 3 (by decide)
    (show encode (.fsub rd ra rb) &&& 0xFFF000FF#32 = 0x08000000#32 from ?_)
    (show Decoded.instr (.fsub (eField 16 (encode (.fsub rd ra rb))) (eField 12 (encode (.fsub rd ra rb))) (eField 8 (encode (.fsub rd ra rb)))) = _ from ?_)
  · simp (disch := first | assumption | decide) [encode, or_and_mask, mask_ereg]
  · simp (disch := first | assumption | decide) [encode, BitVec.extractLsb'_or, extract_place_same, extract_place_above, below_ereg, toFin_ereg, eField]

theorem ssub (rd : EReg) (ra : EReg) (rb : EReg) : Statement (.ssub rd ra rb) := by
  intro _
  refine row_at 4 (by decide)
    (show encode (.ssub rd ra rb) &&& 0xFFF000FF#32 = 0x0A000000#32 from ?_)
    (show Decoded.instr (.ssub (eField 16 (encode (.ssub rd ra rb))) (eField 12 (encode (.ssub rd ra rb))) (eField 8 (encode (.ssub rd ra rb)))) = _ from ?_)
  · simp (disch := first | assumption | decide) [encode, or_and_mask, mask_ereg]
  · simp (disch := first | assumption | decide) [encode, BitVec.extractLsb'_or, extract_place_same, extract_place_above, below_ereg, toFin_ereg, eField]

theorem fneg (rd : EReg) (ra : EReg) : Statement (.fneg rd ra) := by
  intro _
  refine row_at 5 (by decide)
    (show encode (.fneg rd ra) &&& 0xFFF00FFF#32 = 0x0C000000#32 from ?_)
    (show Decoded.instr (.fneg (eField 16 (encode (.fneg rd ra))) (eField 12 (encode (.fneg rd ra)))) = _ from ?_)
  · simp (disch := first | assumption | decide) [encode, or_and_mask, mask_ereg]
  · simp (disch := first | assumption | decide) [encode, BitVec.extractLsb'_or, extract_place_same, extract_place_above, below_ereg, toFin_ereg, eField]

theorem sneg (rd : EReg) (ra : EReg) : Statement (.sneg rd ra) := by
  intro _
  refine row_at 6 (by decide)
    (show encode (.sneg rd ra) &&& 0xFFF00FFF#32 = 0x0E000000#32 from ?_)
    (show Decoded.instr (.sneg (eField 16 (encode (.sneg rd ra))) (eField 12 (encode (.sneg rd ra)))) = _ from ?_)
  · simp (disch := first | assumption | decide) [encode, or_and_mask, mask_ereg]
  · simp (disch := first | assumption | decide) [encode, BitVec.extractLsb'_or, extract_place_same, extract_place_above, below_ereg, toFin_ereg, eField]

theorem fmul (rd : EReg) (ra : EReg) (rb : EReg) : Statement (.fmul rd ra rb) := by
  intro _
  refine row_at 7 (by decide)
    (show encode (.fmul rd ra rb) &&& 0xFFF000FF#32 = 0x10000000#32 from ?_)
    (show Decoded.instr (.fmul (eField 16 (encode (.fmul rd ra rb))) (eField 12 (encode (.fmul rd ra rb))) (eField 8 (encode (.fmul rd ra rb)))) = _ from ?_)
  · simp (disch := first | assumption | decide) [encode, or_and_mask, mask_ereg]
  · simp (disch := first | assumption | decide) [encode, BitVec.extractLsb'_or, extract_place_same, extract_place_above, below_ereg, toFin_ereg, eField]

theorem smul (rd : EReg) (ra : EReg) (rb : EReg) : Statement (.smul rd ra rb) := by
  intro _
  refine row_at 8 (by decide)
    (show encode (.smul rd ra rb) &&& 0xFFF000FF#32 = 0x12000000#32 from ?_)
    (show Decoded.instr (.smul (eField 16 (encode (.smul rd ra rb))) (eField 12 (encode (.smul rd ra rb))) (eField 8 (encode (.smul rd ra rb)))) = _ from ?_)
  · simp (disch := first | assumption | decide) [encode, or_and_mask, mask_ereg]
  · simp (disch := first | assumption | decide) [encode, BitVec.extractLsb'_or, extract_place_same, extract_place_above, below_ereg, toFin_ereg, eField]

theorem fsqr (rd : EReg) (ra : EReg) : Statement (.fsqr rd ra) := by
  intro _
  refine row_at 9 (by decide)
    (show encode (.fsqr rd ra) &&& 0xFFF00FFF#32 = 0x14000000#32 from ?_)
    (show Decoded.instr (.fsqr (eField 16 (encode (.fsqr rd ra))) (eField 12 (encode (.fsqr rd ra)))) = _ from ?_)
  · simp (disch := first | assumption | decide) [encode, or_and_mask, mask_ereg]
  · simp (disch := first | assumption | decide) [encode, BitVec.extractLsb'_or, extract_place_same, extract_place_above, below_ereg, toFin_ereg, eField]

theorem ssqr (rd : EReg) (ra : EReg) : Statement (.ssqr rd ra) := by
  intro _
  refine row_at 10 (by decide)
    (show encode (.ssqr rd ra) &&& 0xFFF00FFF#32 = 0x16000000#32 from ?_)
    (show Decoded.instr (.ssqr (eField 16 (encode (.ssqr rd ra))) (eField 12 (encode (.ssqr rd ra)))) = _ from ?_)
  · simp (disch := first | assumption | decide) [encode, or_and_mask, mask_ereg]
  · simp (disch := first | assumption | decide) [encode, BitVec.extractLsb'_or, extract_place_same, extract_place_above, below_ereg, toFin_ereg, eField]

theorem finv (rd : EReg) (kd : KReg) (ra : EReg) : Statement (.finv rd kd ra) := by
  intro _
  refine row_at 11 (by decide)
    (show encode (.finv rd kd ra) &&& 0xFFC00FFF#32 = 0x18000000#32 from ?_)
    (show Decoded.instr (.finv (eField 16 (encode (.finv rd kd ra))) (kField 20 (encode (.finv rd kd ra))) (eField 12 (encode (.finv rd kd ra)))) = _ from ?_)
  · simp (disch := first | assumption | decide) [encode, or_and_mask, mask_ereg, mask_kreg]
  · simp (disch := first | assumption | decide) [encode, BitVec.extractLsb'_or, extract_place_same, extract_place_above, below_ereg, toFin_ereg, below_kreg, toFin_kreg, eField, kField]

theorem sinv (rd : EReg) (kd : KReg) (ra : EReg) : Statement (.sinv rd kd ra) := by
  intro _
  refine row_at 12 (by decide)
    (show encode (.sinv rd kd ra) &&& 0xFFC00FFF#32 = 0x1A000000#32 from ?_)
    (show Decoded.instr (.sinv (eField 16 (encode (.sinv rd kd ra))) (kField 20 (encode (.sinv rd kd ra))) (eField 12 (encode (.sinv rd kd ra)))) = _ from ?_)
  · simp (disch := first | assumption | decide) [encode, or_and_mask, mask_ereg, mask_kreg]
  · simp (disch := first | assumption | decide) [encode, BitVec.extractLsb'_or, extract_place_same, extract_place_above, below_ereg, toFin_ereg, below_kreg, toFin_kreg, eField, kField]

theorem fsqrt (rd : EReg) (kd : KReg) (ra : EReg) : Statement (.fsqrt rd kd ra) := by
  intro _
  refine row_at 13 (by decide)
    (show encode (.fsqrt rd kd ra) &&& 0xFFC00FFF#32 = 0x1C000000#32 from ?_)
    (show Decoded.instr (.fsqrt (eField 16 (encode (.fsqrt rd kd ra))) (kField 20 (encode (.fsqrt rd kd ra))) (eField 12 (encode (.fsqrt rd kd ra)))) = _ from ?_)
  · simp (disch := first | assumption | decide) [encode, or_and_mask, mask_ereg, mask_kreg]
  · simp (disch := first | assumption | decide) [encode, BitVec.extractLsb'_or, extract_place_same, extract_place_above, below_ereg, toFin_ereg, below_kreg, toFin_kreg, eField, kField]

theorem ssqrt (rd : EReg) (kd : KReg) (ra : EReg) : Statement (.ssqrt rd kd ra) := by
  intro _
  refine row_at 14 (by decide)
    (show encode (.ssqrt rd kd ra) &&& 0xFFC00FFF#32 = 0x1E000000#32 from ?_)
    (show Decoded.instr (.ssqrt (eField 16 (encode (.ssqrt rd kd ra))) (kField 20 (encode (.ssqrt rd kd ra))) (eField 12 (encode (.ssqrt rd kd ra)))) = _ from ?_)
  · simp (disch := first | assumption | decide) [encode, or_and_mask, mask_ereg, mask_kreg]
  · simp (disch := first | assumption | decide) [encode, BitVec.extractLsb'_or, extract_place_same, extract_place_above, below_ereg, toFin_ereg, below_kreg, toFin_kreg, eField, kField]

theorem fnorm (rd : EReg) (ra : EReg) : Statement (.fnorm rd ra) := by
  intro _
  refine row_at 15 (by decide)
    (show encode (.fnorm rd ra) &&& 0xFFF00FFF#32 = 0x20000000#32 from ?_)
    (show Decoded.instr (.fnorm (eField 16 (encode (.fnorm rd ra))) (eField 12 (encode (.fnorm rd ra)))) = _ from ?_)
  · simp (disch := first | assumption | decide) [encode, or_and_mask, mask_ereg]
  · simp (disch := first | assumption | decide) [encode, BitVec.extractLsb'_or, extract_place_same, extract_place_above, below_ereg, toFin_ereg, eField]

theorem snorm (rd : EReg) (ra : EReg) : Statement (.snorm rd ra) := by
  intro _
  refine row_at 16 (by decide)
    (show encode (.snorm rd ra) &&& 0xFFF00FFF#32 = 0x22000000#32 from ?_)
    (show Decoded.instr (.snorm (eField 16 (encode (.snorm rd ra))) (eField 12 (encode (.snorm rd ra)))) = _ from ?_)
  · simp (disch := first | assumption | decide) [encode, or_and_mask, mask_ereg]
  · simp (disch := first | assumption | decide) [encode, BitVec.extractLsb'_or, extract_place_same, extract_place_above, below_ereg, toFin_ereg, eField]

theorem fsel (rd : EReg) (ra : EReg) (rb : EReg) (ks : KReg) : Statement (.fsel rd ra rb ks) := by
  intro _
  refine row_at 17 (by decide)
    (show encode (.fsel rd ra rb ks) &&& 0xFF3000FF#32 = 0x24000000#32 from ?_)
    (show Decoded.instr (.fsel (eField 16 (encode (.fsel rd ra rb ks))) (eField 12 (encode (.fsel rd ra rb ks))) (eField 8 (encode (.fsel rd ra rb ks))) (kField 22 (encode (.fsel rd ra rb ks)))) = _ from ?_)
  · simp (disch := first | assumption | decide) [encode, or_and_mask, mask_ereg, mask_kreg]
  · simp (disch := first | assumption | decide) [encode, BitVec.extractLsb'_or, extract_place_same, extract_place_above, below_ereg, toFin_ereg, below_kreg, toFin_kreg, eField, kField]

theorem ssel (rd : EReg) (ra : EReg) (rb : EReg) (ks : KReg) : Statement (.ssel rd ra rb ks) := by
  intro _
  refine row_at 18 (by decide)
    (show encode (.ssel rd ra rb ks) &&& 0xFF3000FF#32 = 0x26000000#32 from ?_)
    (show Decoded.instr (.ssel (eField 16 (encode (.ssel rd ra rb ks))) (eField 12 (encode (.ssel rd ra rb ks))) (eField 8 (encode (.ssel rd ra rb ks))) (kField 22 (encode (.ssel rd ra rb ks)))) = _ from ?_)
  · simp (disch := first | assumption | decide) [encode, or_and_mask, mask_ereg, mask_kreg]
  · simp (disch := first | assumption | decide) [encode, BitVec.extractLsb'_or, extract_place_same, extract_place_above, below_ereg, toFin_ereg, below_kreg, toFin_kreg, eField, kField]

theorem fisz (kd : KReg) (ra : EReg) : Statement (.fisz kd ra) := by
  intro _
  refine row_at 19 (by decide)
    (show encode (.fisz kd ra) &&& 0xFFCF0FFF#32 = 0x28000000#32 from ?_)
    (show Decoded.instr (.fisz (kField 20 (encode (.fisz kd ra))) (eField 12 (encode (.fisz kd ra)))) = _ from ?_)
  · simp (disch := first | assumption | decide) [encode, or_and_mask, mask_ereg, mask_kreg]
  · simp (disch := first | assumption | decide) [encode, BitVec.extractLsb'_or, extract_place_same, extract_place_above, below_ereg, toFin_ereg, below_kreg, toFin_kreg, eField, kField]

theorem sisz (kd : KReg) (ra : EReg) : Statement (.sisz kd ra) := by
  intro _
  refine row_at 20 (by decide)
    (show encode (.sisz kd ra) &&& 0xFFCF0FFF#32 = 0x2A000000#32 from ?_)
    (show Decoded.instr (.sisz (kField 20 (encode (.sisz kd ra))) (eField 12 (encode (.sisz kd ra)))) = _ from ?_)
  · simp (disch := first | assumption | decide) [encode, or_and_mask, mask_ereg, mask_kreg]
  · simp (disch := first | assumption | decide) [encode, BitVec.extractLsb'_or, extract_place_same, extract_place_above, below_ereg, toFin_ereg, below_kreg, toFin_kreg, eField, kField]

theorem fisodd (kd : KReg) (ra : EReg) : Statement (.fisodd kd ra) := by
  intro _
  refine row_at 21 (by decide)
    (show encode (.fisodd kd ra) &&& 0xFFCF0FFF#32 = 0x2C000000#32 from ?_)
    (show Decoded.instr (.fisodd (kField 20 (encode (.fisodd kd ra))) (eField 12 (encode (.fisodd kd ra)))) = _ from ?_)
  · simp (disch := first | assumption | decide) [encode, or_and_mask, mask_ereg, mask_kreg]
  · simp (disch := first | assumption | decide) [encode, BitVec.extractLsb'_or, extract_place_same, extract_place_above, below_ereg, toFin_ereg, below_kreg, toFin_kreg, eField, kField]

theorem sisodd (kd : KReg) (ra : EReg) : Statement (.sisodd kd ra) := by
  intro _
  refine row_at 22 (by decide)
    (show encode (.sisodd kd ra) &&& 0xFFCF0FFF#32 = 0x2E000000#32 from ?_)
    (show Decoded.instr (.sisodd (kField 20 (encode (.sisodd kd ra))) (eField 12 (encode (.sisodd kd ra)))) = _ from ?_)
  · simp (disch := first | assumption | decide) [encode, or_and_mask, mask_ereg, mask_kreg]
  · simp (disch := first | assumption | decide) [encode, BitVec.extractLsb'_or, extract_place_same, extract_place_above, below_ereg, toFin_ereg, below_kreg, toFin_kreg, eField, kField]

theorem feq (kd : KReg) (ra : EReg) (rb : EReg) : Statement (.feq kd ra rb) := by
  intro _
  refine row_at 23 (by decide)
    (show encode (.feq kd ra rb) &&& 0xFFCF00FF#32 = 0x30000000#32 from ?_)
    (show Decoded.instr (.feq (kField 20 (encode (.feq kd ra rb))) (eField 12 (encode (.feq kd ra rb))) (eField 8 (encode (.feq kd ra rb)))) = _ from ?_)
  · simp (disch := first | assumption | decide) [encode, or_and_mask, mask_ereg, mask_kreg]
  · simp (disch := first | assumption | decide) [encode, BitVec.extractLsb'_or, extract_place_same, extract_place_above, below_ereg, toFin_ereg, below_kreg, toFin_kreg, eField, kField]

theorem seq (kd : KReg) (ra : EReg) (rb : EReg) : Statement (.seq kd ra rb) := by
  intro _
  refine row_at 24 (by decide)
    (show encode (.seq kd ra rb) &&& 0xFFCF00FF#32 = 0x32000000#32 from ?_)
    (show Decoded.instr (.seq (kField 20 (encode (.seq kd ra rb))) (eField 12 (encode (.seq kd ra rb))) (eField 8 (encode (.seq kd ra rb)))) = _ from ?_)
  · simp (disch := first | assumption | decide) [encode, or_and_mask, mask_ereg, mask_kreg]
  · simp (disch := first | assumption | decide) [encode, BitVec.extractLsb'_or, extract_place_same, extract_place_above, below_ereg, toFin_ereg, below_kreg, toFin_kreg, eField, kField]

theorem sishigh (kd : KReg) (ra : EReg) : Statement (.sishigh kd ra) := by
  intro _
  refine row_at 25 (by decide)
    (show encode (.sishigh kd ra) &&& 0xFFCF0FFF#32 = 0x36000000#32 from ?_)
    (show Decoded.instr (.sishigh (kField 20 (encode (.sishigh kd ra))) (eField 12 (encode (.sishigh kd ra)))) = _ from ?_)
  · simp (disch := first | assumption | decide) [encode, or_and_mask, mask_ereg, mask_kreg]
  · simp (disch := first | assumption | decide) [encode, BitVec.extractLsb'_or, extract_place_same, extract_place_above, below_ereg, toFin_ereg, below_kreg, toFin_kreg, eField, kField]

theorem fldc (rd : EReg) (c : FConst) : Statement (.fldc rd c) := by
  intro _
  refine row_at 26 (by decide)
    (show encode (.fldc rd c) &&& 0xFFF0FFFC#32 = 0x38000000#32 from ?_)
    (show Decoded.instr (.fldc (eField 16 (encode (.fldc rd c))) (fConstField (encode (.fldc rd c)))) = _ from ?_)
  · simp (disch := first | assumption | decide) [encode, or_and_mask, mask_ereg, mask_fconst]
  · simp (disch := first | assumption | decide) [encode, BitVec.extractLsb'_or, extract_place_same, extract_place_above, below_ereg, toFin_ereg, eField, fConstField, below_fconst, read_fconst]

theorem sldc (rd : EReg) (c : SConst) : Statement (.sldc rd c) := by
  intro _
  refine row_at 27 (by decide)
    (show encode (.sldc rd c) &&& 0xFFF0FFFE#32 = 0x3A000000#32 from ?_)
    (show Decoded.instr (.sldc (eField 16 (encode (.sldc rd c))) (sConstField (encode (.sldc rd c)))) = _ from ?_)
  · simp (disch := first | assumption | decide) [encode, or_and_mask, mask_ereg, mask_sconst]
  · simp (disch := first | assumption | decide) [encode, BitVec.extractLsb'_or, extract_place_same, extract_place_above, below_ereg, toFin_ereg, eField, sConstField, below_sconst, read_sconst]

theorem fdec (rg : EReg) (kd : KReg) (off : Nat) (len : Nat) : Statement (.fdec rg kd off len) := by
  intro h
  have h1 := fitsByte_iff.mp (Bool.and_eq_true_iff.mp h).1
  have h2 := fitsByte_iff.mp (Bool.and_eq_true_iff.mp h).2
  refine row_at 28 (by decide)
    (show encode (.fdec rg kd off len) &&& 0xFFC00000#32 = 0x40000000#32 from ?_)
    (show Decoded.instr (.fdec (eField 16 (encode (.fdec rg kd off len))) (kField 20 (encode (.fdec rg kd off len))) (byteField 0 (encode (.fdec rg kd off len))) (byteField 8 (encode (.fdec rg kd off len)))) = _ from ?_)
  · simp (disch := first | assumption | decide) [encode, or_and_mask, mask_ereg, mask_kreg, mask_byte]
  · simp (disch := first | assumption | decide) [encode, BitVec.extractLsb'_or, extract_place_same, extract_place_above, below_ereg, toFin_ereg, below_kreg, toFin_kreg, below_byte, toNat_byte, eField, kField, byteField, h1, h2]

theorem sdec (rg : EReg) (kd : KReg) (off : Nat) (len : Nat) : Statement (.sdec rg kd off len) := by
  intro h
  have h1 := fitsByte_iff.mp (Bool.and_eq_true_iff.mp h).1
  have h2 := fitsByte_iff.mp (Bool.and_eq_true_iff.mp h).2
  refine row_at 29 (by decide)
    (show encode (.sdec rg kd off len) &&& 0xFFC00000#32 = 0x42000000#32 from ?_)
    (show Decoded.instr (.sdec (eField 16 (encode (.sdec rg kd off len))) (kField 20 (encode (.sdec rg kd off len))) (byteField 0 (encode (.sdec rg kd off len))) (byteField 8 (encode (.sdec rg kd off len)))) = _ from ?_)
  · simp (disch := first | assumption | decide) [encode, or_and_mask, mask_ereg, mask_kreg, mask_byte]
  · simp (disch := first | assumption | decide) [encode, BitVec.extractLsb'_or, extract_place_same, extract_place_above, below_ereg, toFin_ereg, below_kreg, toFin_kreg, below_byte, toNat_byte, eField, kField, byteField, h1, h2]

theorem fenc (rg : EReg) (off : Nat) (len : Nat) : Statement (.fenc rg off len) := by
  intro h
  have h1 := fitsByte_iff.mp (Bool.and_eq_true_iff.mp h).1
  have h2 := fitsByte_iff.mp (Bool.and_eq_true_iff.mp h).2
  refine row_at 30 (by decide)
    (show encode (.fenc rg off len) &&& 0xFFF00000#32 = 0x44000000#32 from ?_)
    (show Decoded.instr (.fenc (eField 16 (encode (.fenc rg off len))) (byteField 0 (encode (.fenc rg off len))) (byteField 8 (encode (.fenc rg off len)))) = _ from ?_)
  · simp (disch := first | assumption | decide) [encode, or_and_mask, mask_ereg, mask_byte]
  · simp (disch := first | assumption | decide) [encode, BitVec.extractLsb'_or, extract_place_same, extract_place_above, below_ereg, toFin_ereg, below_byte, toNat_byte, eField, byteField, h1, h2]

theorem senc (rg : EReg) (off : Nat) (len : Nat) : Statement (.senc rg off len) := by
  intro h
  have h1 := fitsByte_iff.mp (Bool.and_eq_true_iff.mp h).1
  have h2 := fitsByte_iff.mp (Bool.and_eq_true_iff.mp h).2
  refine row_at 31 (by decide)
    (show encode (.senc rg off len) &&& 0xFFF00000#32 = 0x46000000#32 from ?_)
    (show Decoded.instr (.senc (eField 16 (encode (.senc rg off len))) (byteField 0 (encode (.senc rg off len))) (byteField 8 (encode (.senc rg off len)))) = _ from ?_)
  · simp (disch := first | assumption | decide) [encode, or_and_mask, mask_ereg, mask_byte]
  · simp (disch := first | assumption | decide) [encode, BitVec.extractLsb'_or, extract_place_same, extract_place_above, below_ereg, toFin_ereg, below_byte, toNat_byte, eField, byteField, h1, h2]

theorem sred (rg : EReg) (off : Nat) (len : Nat) : Statement (.sred rg off len) := by
  intro h
  have h1 := fitsByte_iff.mp (Bool.and_eq_true_iff.mp h).1
  have h2 := fitsByte_iff.mp (Bool.and_eq_true_iff.mp h).2
  refine row_at 32 (by decide)
    (show encode (.sred rg off len) &&& 0xFFF00000#32 = 0x4A000000#32 from ?_)
    (show Decoded.instr (.sred (eField 16 (encode (.sred rg off len))) (byteField 0 (encode (.sred rg off len))) (byteField 8 (encode (.sred rg off len)))) = _ from ?_)
  · simp (disch := first | assumption | decide) [encode, or_and_mask, mask_ereg, mask_byte]
  · simp (disch := first | assumption | decide) [encode, BitVec.extractLsb'_or, extract_place_same, extract_place_above, below_ereg, toFin_ereg, below_byte, toNat_byte, eField, byteField, h1, h2]

theorem srednz (rg : EReg) (off : Nat) (len : Nat) : Statement (.srednz rg off len) := by
  intro h
  have h1 := fitsByte_iff.mp (Bool.and_eq_true_iff.mp h).1
  have h2 := fitsByte_iff.mp (Bool.and_eq_true_iff.mp h).2
  refine row_at 33 (by decide)
    (show encode (.srednz rg off len) &&& 0xFFF00000#32 = 0x4E000000#32 from ?_)
    (show Decoded.instr (.srednz (eField 16 (encode (.srednz rg off len))) (byteField 0 (encode (.srednz rg off len))) (byteField 8 (encode (.srednz rg off len)))) = _ from ?_)
  · simp (disch := first | assumption | decide) [encode, or_and_mask, mask_ereg, mask_byte]
  · simp (disch := first | assumption | decide) [encode, BitVec.extractLsb'_or, extract_place_same, extract_place_above, below_ereg, toFin_ereg, below_byte, toNat_byte, eField, byteField, h1, h2]

theorem padd (rd : PReg) (ra : PReg) (rb : PReg) : Statement (.padd rd ra rb) := by
  intro _
  refine row_at 34 (by decide)
    (show encode (.padd rd ra rb) &&& 0xFFF888FF#32 = 0x80000000#32 from ?_)
    (show Decoded.instr (.padd (pField 16 (encode (.padd rd ra rb))) (pField 12 (encode (.padd rd ra rb))) (pField 8 (encode (.padd rd ra rb)))) = _ from ?_)
  · simp (disch := first | assumption | decide) [encode, or_and_mask, mask_preg]
  · simp (disch := first | assumption | decide) [encode, BitVec.extractLsb'_or, extract_place_same, extract_place_above, below_preg, toFin_preg, pField]

theorem paddm (rd : PReg) (ra : PReg) (rb : PReg) : Statement (.paddm rd ra rb) := by
  intro _
  refine row_at 35 (by decide)
    (show encode (.paddm rd ra rb) &&& 0xFFF888FF#32 = 0x84000000#32 from ?_)
    (show Decoded.instr (.paddm (pField 16 (encode (.paddm rd ra rb))) (pField 12 (encode (.paddm rd ra rb))) (pField 8 (encode (.paddm rd ra rb)))) = _ from ?_)
  · simp (disch := first | assumption | decide) [encode, or_and_mask, mask_preg]
  · simp (disch := first | assumption | decide) [encode, BitVec.extractLsb'_or, extract_place_same, extract_place_above, below_preg, toFin_preg, pField]

theorem pdbl (rd : PReg) (ra : PReg) : Statement (.pdbl rd ra) := by
  intro _
  refine row_at 36 (by decide)
    (show encode (.pdbl rd ra) &&& 0xFFF88FFF#32 = 0x88000000#32 from ?_)
    (show Decoded.instr (.pdbl (pField 16 (encode (.pdbl rd ra))) (pField 12 (encode (.pdbl rd ra)))) = _ from ?_)
  · simp (disch := first | assumption | decide) [encode, or_and_mask, mask_preg]
  · simp (disch := first | assumption | decide) [encode, BitVec.extractLsb'_or, extract_place_same, extract_place_above, below_preg, toFin_preg, pField]

theorem pneg (rd : PReg) (ra : PReg) : Statement (.pneg rd ra) := by
  intro _
  refine row_at 37 (by decide)
    (show encode (.pneg rd ra) &&& 0xFFF88FFF#32 = 0x8C000000#32 from ?_)
    (show Decoded.instr (.pneg (pField 16 (encode (.pneg rd ra))) (pField 12 (encode (.pneg rd ra)))) = _ from ?_)
  · simp (disch := first | assumption | decide) [encode, or_and_mask, mask_preg]
  · simp (disch := first | assumption | decide) [encode, BitVec.extractLsb'_or, extract_place_same, extract_place_above, below_preg, toFin_preg, pField]

theorem pmul (rd : PReg) (ra : PReg) (rb : EReg) : Statement (.pmul rd ra rb) := by
  intro _
  refine row_at 38 (by decide)
    (show encode (.pmul rd ra rb) &&& 0xFFF880FF#32 = 0x90000000#32 from ?_)
    (show Decoded.instr (.pmul (pField 16 (encode (.pmul rd ra rb))) (pField 12 (encode (.pmul rd ra rb))) (eField 8 (encode (.pmul rd ra rb)))) = _ from ?_)
  · simp (disch := first | assumption | decide) [encode, or_and_mask, mask_ereg, mask_preg]
  · simp (disch := first | assumption | decide) [encode, BitVec.extractLsb'_or, extract_place_same, extract_place_above, below_ereg, toFin_ereg, below_preg, toFin_preg, eField, pField]

theorem ptoaff (rd : PReg) (ra : PReg) : Statement (.ptoaff rd ra) := by
  intro _
  refine row_at 39 (by decide)
    (show encode (.ptoaff rd ra) &&& 0xFFF88FFF#32 = 0x94000000#32 from ?_)
    (show Decoded.instr (.ptoaff (pField 16 (encode (.ptoaff rd ra))) (pField 12 (encode (.ptoaff rd ra)))) = _ from ?_)
  · simp (disch := first | assumption | decide) [encode, or_and_mask, mask_preg]
  · simp (disch := first | assumption | decide) [encode, BitVec.extractLsb'_or, extract_place_same, extract_place_above, below_preg, toFin_preg, pField]

theorem pfroma (rd : PReg) (ra : PReg) : Statement (.pfroma rd ra) := by
  intro _
  refine row_at 40 (by decide)
    (show encode (.pfroma rd ra) &&& 0xFFF88FFF#32 = 0x98000000#32 from ?_)
    (show Decoded.instr (.pfroma (pField 16 (encode (.pfroma rd ra))) (pField 12 (encode (.pfroma rd ra)))) = _ from ?_)
  · simp (disch := first | assumption | decide) [encode, or_and_mask, mask_preg]
  · simp (disch := first | assumption | decide) [encode, BitVec.extractLsb'_or, extract_place_same, extract_place_above, below_preg, toFin_preg, pField]

theorem psel (rd : PReg) (ra : PReg) (rb : PReg) (ks : KReg) : Statement (.psel rd ra rb ks) := by
  intro _
  refine row_at 41 (by decide)
    (show encode (.psel rd ra rb ks) &&& 0xFF3888FF#32 = 0x9C000000#32 from ?_)
    (show Decoded.instr (.psel (pField 16 (encode (.psel rd ra rb ks))) (pField 12 (encode (.psel rd ra rb ks))) (pField 8 (encode (.psel rd ra rb ks))) (kField 22 (encode (.psel rd ra rb ks)))) = _ from ?_)
  · simp (disch := first | assumption | decide) [encode, or_and_mask, mask_preg, mask_kreg]
  · simp (disch := first | assumption | decide) [encode, BitVec.extractLsb'_or, extract_place_same, extract_place_above, below_preg, toFin_preg, below_kreg, toFin_kreg, pField, kField]

theorem pisid (kd : KReg) (ra : PReg) : Statement (.pisid kd ra) := by
  intro _
  refine row_at 42 (by decide)
    (show encode (.pisid kd ra) &&& 0xFFCF8FFF#32 = 0xA0000000#32 from ?_)
    (show Decoded.instr (.pisid (kField 20 (encode (.pisid kd ra))) (pField 12 (encode (.pisid kd ra)))) = _ from ?_)
  · simp (disch := first | assumption | decide) [encode, or_and_mask, mask_preg, mask_kreg]
  · simp (disch := first | assumption | decide) [encode, BitVec.extractLsb'_or, extract_place_same, extract_place_above, below_preg, toFin_preg, below_kreg, toFin_kreg, pField, kField]

theorem peq (kd : KReg) (ra : PReg) (rb : PReg) : Statement (.peq kd ra rb) := by
  intro _
  refine row_at 43 (by decide)
    (show encode (.peq kd ra rb) &&& 0xFFCF88FF#32 = 0xA4000000#32 from ?_)
    (show Decoded.instr (.peq (kField 20 (encode (.peq kd ra rb))) (pField 12 (encode (.peq kd ra rb))) (pField 8 (encode (.peq kd ra rb)))) = _ from ?_)
  · simp (disch := first | assumption | decide) [encode, or_and_mask, mask_preg, mask_kreg]
  · simp (disch := first | assumption | decide) [encode, BitVec.extractLsb'_or, extract_place_same, extract_place_above, below_preg, toFin_preg, below_kreg, toFin_kreg, pField, kField]

theorem pldi (rd : PReg) : Statement (.pldi rd) := by
  intro _
  refine row_at 44 (by decide)
    (show encode (.pldi rd) &&& 0xFFF8FFFF#32 = 0xA8000000#32 from ?_)
    (show Decoded.instr (.pldi (pField 16 (encode (.pldi rd)))) = _ from ?_)
  · simp (disch := first | assumption | decide) [encode, or_and_mask, mask_preg]
  · simp (disch := first | assumption | decide) [encode, BitVec.extractLsb'_or, extract_place_same, extract_place_above, below_preg, toFin_preg, pField]

theorem aldi (rd : PReg) : Statement (.aldi rd) := by
  intro _
  refine row_at 45 (by decide)
    (show encode (.aldi rd) &&& 0xFFF8FFFF#32 = 0xC0000000#32 from ?_)
    (show Decoded.instr (.aldi (pField 16 (encode (.aldi rd)))) = _ from ?_)
  · simp (disch := first | assumption | decide) [encode, or_and_mask, mask_preg]
  · simp (disch := first | assumption | decide) [encode, BitVec.extractLsb'_or, extract_place_same, extract_place_above, below_preg, toFin_preg, pField]

theorem aldg (rd : PReg) : Statement (.aldg rd) := by
  intro _
  refine row_at 46 (by decide)
    (show encode (.aldg rd) &&& 0xFFF8FFFF#32 = 0xC4000000#32 from ?_)
    (show Decoded.instr (.aldg (pField 16 (encode (.aldg rd)))) = _ from ?_)
  · simp (disch := first | assumption | decide) [encode, or_and_mask, mask_preg]
  · simp (disch := first | assumption | decide) [encode, BitVec.extractLsb'_or, extract_place_same, extract_place_above, below_preg, toFin_preg, pField]

theorem aneg (rd : PReg) (ra : PReg) : Statement (.aneg rd ra) := by
  intro _
  refine row_at 47 (by decide)
    (show encode (.aneg rd ra) &&& 0xFFF88FFF#32 = 0xC8000000#32 from ?_)
    (show Decoded.instr (.aneg (pField 16 (encode (.aneg rd ra))) (pField 12 (encode (.aneg rd ra)))) = _ from ?_)
  · simp (disch := first | assumption | decide) [encode, or_and_mask, mask_preg]
  · simp (disch := first | assumption | decide) [encode, BitVec.extractLsb'_or, extract_place_same, extract_place_above, below_preg, toFin_preg, pField]

theorem aonc (kd : KReg) (ra : PReg) : Statement (.aonc kd ra) := by
  intro _
  refine row_at 48 (by decide)
    (show encode (.aonc kd ra) &&& 0xFFCF8FFF#32 = 0xCC000000#32 from ?_)
    (show Decoded.instr (.aonc (kField 20 (encode (.aonc kd ra))) (pField 12 (encode (.aonc kd ra)))) = _ from ?_)
  · simp (disch := first | assumption | decide) [encode, or_and_mask, mask_preg, mask_kreg]
  · simp (disch := first | assumption | decide) [encode, BitVec.extractLsb'_or, extract_place_same, extract_place_above, below_preg, toFin_preg, below_kreg, toFin_kreg, pField, kField]

theorem aisid (kd : KReg) (ra : PReg) : Statement (.aisid kd ra) := by
  intro _
  refine row_at 49 (by decide)
    (show encode (.aisid kd ra) &&& 0xFFCF8FFF#32 = 0xD0000000#32 from ?_)
    (show Decoded.instr (.aisid (kField 20 (encode (.aisid kd ra))) (pField 12 (encode (.aisid kd ra)))) = _ from ?_)
  · simp (disch := first | assumption | decide) [encode, or_and_mask, mask_preg, mask_kreg]
  · simp (disch := first | assumption | decide) [encode, BitVec.extractLsb'_or, extract_place_same, extract_place_above, below_preg, toFin_preg, below_kreg, toFin_kreg, pField, kField]

theorem asel (rd : PReg) (ra : PReg) (rb : PReg) (ks : KReg) : Statement (.asel rd ra rb ks) := by
  intro _
  refine row_at 50 (by decide)
    (show encode (.asel rd ra rb ks) &&& 0xFF3888FF#32 = 0xD4000000#32 from ?_)
    (show Decoded.instr (.asel (pField 16 (encode (.asel rd ra rb ks))) (pField 12 (encode (.asel rd ra rb ks))) (pField 8 (encode (.asel rd ra rb ks))) (kField 22 (encode (.asel rd ra rb ks)))) = _ from ?_)
  · simp (disch := first | assumption | decide) [encode, or_and_mask, mask_preg, mask_kreg]
  · simp (disch := first | assumption | decide) [encode, BitVec.extractLsb'_or, extract_place_same, extract_place_above, below_preg, toFin_preg, below_kreg, toFin_kreg, pField, kField]

theorem aget (rd : EReg) (ra : PReg) (c : Coord) : Statement (.aget rd ra c) := by
  intro _
  refine row_at 51 (by decide)
    (show encode (.aget rd ra c) &&& 0xFFF08FFE#32 = 0xD8000000#32 from ?_)
    (show Decoded.instr (.aget (eField 16 (encode (.aget rd ra c))) (pField 12 (encode (.aget rd ra c))) (coordField (encode (.aget rd ra c)))) = _ from ?_)
  · simp (disch := first | assumption | decide) [encode, or_and_mask, mask_ereg, mask_preg, mask_coord]
  · simp (disch := first | assumption | decide) [encode, BitVec.extractLsb'_or, extract_place_same, extract_place_above, below_ereg, toFin_ereg, below_preg, toFin_preg, eField, pField, coordField, below_coord, read_coord]

theorem aset (rd : PReg) (kd : KReg) (ra : EReg) (rb : EReg) : Statement (.aset rd kd ra rb) := by
  intro _
  refine row_at 52 (by decide)
    (show encode (.aset rd kd ra rb) &&& 0xFFC800FF#32 = 0xDC000000#32 from ?_)
    (show Decoded.instr (.aset (pField 16 (encode (.aset rd kd ra rb))) (kField 20 (encode (.aset rd kd ra rb))) (eField 12 (encode (.aset rd kd ra rb))) (eField 8 (encode (.aset rd kd ra rb)))) = _ from ?_)
  · simp (disch := first | assumption | decide) [encode, or_and_mask, mask_ereg, mask_preg, mask_kreg]
  · simp (disch := first | assumption | decide) [encode, BitVec.extractLsb'_or, extract_place_same, extract_place_above, below_ereg, toFin_ereg, below_preg, toFin_preg, below_kreg, toFin_kreg, eField, pField, kField]

theorem penc (rg : PReg) (kd : KReg) (off : Nat) (form : Form) : Statement (.penc rg kd off form) := by
  intro h
  have h1 := fitsByte_iff.mp h
  refine row_at 53 (by decide)
    (show encode (.penc rg kd off form) &&& 0xFE48FF00#32 = 0xE0000000#32 from ?_)
    (show pencOf (encode (.penc rg kd off form)) = _ from ?_)
  · simp (disch := first | assumption | decide) [encode, or_and_mask, mask_preg, mask_kreg, mask_byte, mask_form]
  · simp (disch := first | assumption | decide) [encode, BitVec.extractLsb'_or, extract_place_same, extract_place_above, below_preg, toFin_preg, below_kreg, toFin_kreg, below_byte, toNat_byte, pField, kField, byteField, pencOf, h1, Nat.mod_eq_of_lt, below_form, read_form]

theorem pdec (rg : PReg) (kd : KReg) (off : Nat) (len : Nat) : Statement (.pdec rg kd off len) := by
  intro h
  have h1 := fitsByte_iff.mp (Bool.and_eq_true_iff.mp h).1
  have h2 := fitsByte_iff.mp (Bool.and_eq_true_iff.mp h).2
  refine row_at 54 (by decide)
    (show encode (.pdec rg kd off len) &&& 0xFFC80000#32 = 0xE4000000#32 from ?_)
    (show Decoded.instr (.pdec (pField 16 (encode (.pdec rg kd off len))) (kField 20 (encode (.pdec rg kd off len))) (byteField 0 (encode (.pdec rg kd off len))) (byteField 8 (encode (.pdec rg kd off len)))) = _ from ?_)
  · simp (disch := first | assumption | decide) [encode, or_and_mask, mask_preg, mask_kreg, mask_byte]
  · simp (disch := first | assumption | decide) [encode, BitVec.extractLsb'_or, extract_place_same, extract_place_above, below_preg, toFin_preg, below_kreg, toFin_kreg, below_byte, toNat_byte, eField, pField, kField, byteField, h1, h2]

theorem cfgw (slot : Slot) (off : Nat) (len : Nat) : Statement (.cfgw slot off len) := by
  intro h
  have h1 := fitsByte_iff.mp (Bool.and_eq_true_iff.mp h).1
  have h2 := fitsByte_iff.mp (Bool.and_eq_true_iff.mp h).2
  refine row_at 55 (by decide)
    (show encode (.cfgw slot off len) &&& 0xFFF00000#32 = 0xF0000000#32 from ?_)
    (show cfgwOf (encode (.cfgw slot off len)) = _ from ?_)
  · simp (disch := first | assumption | decide) [encode, or_and_mask, mask_byte, mask_slot]
  · simp (disch := first | assumption | decide) [encode, BitVec.extractLsb'_or, extract_place_same, extract_place_above, below_byte, toNat_byte, byteField, cfgwOf, h1, h2, Nat.mod_eq_of_lt, below_slot, read_slot]

theorem cfglock : Statement (.cfglock) := by
  intro _
  exact row_at 56 (by decide) (by decide) (by decide)

theorem kmov (kd : KReg) (ka : KReg) : Statement (.kmov kd ka) := by
  intro _
  refine row_at 57 (by decide)
    (show encode (.kmov kd ka) &&& 0xFFCFCFFF#32 = 0xF8000000#32 from ?_)
    (show Decoded.instr (.kmov (kField 20 (encode (.kmov kd ka))) (kField 12 (encode (.kmov kd ka)))) = _ from ?_)
  · simp (disch := first | assumption | decide) [encode, or_and_mask, mask_kreg]
  · simp (disch := first | assumption | decide) [encode, BitVec.extractLsb'_or, extract_place_same, extract_place_above, below_kreg, toFin_kreg, kField]

theorem knot (kd : KReg) (ka : KReg) : Statement (.knot kd ka) := by
  intro _
  refine row_at 58 (by decide)
    (show encode (.knot kd ka) &&& 0xFFCFCFFF#32 = 0xF8000001#32 from ?_)
    (show Decoded.instr (.knot (kField 20 (encode (.knot kd ka))) (kField 12 (encode (.knot kd ka)))) = _ from ?_)
  · simp (disch := first | assumption | decide) [encode, or_and_mask, mask_kreg]
  · simp (disch := first | assumption | decide) [encode, BitVec.extractLsb'_or, extract_place_same, extract_place_above, below_kreg, toFin_kreg, kField]

theorem kand (kd : KReg) (ka : KReg) (kb : KReg) : Statement (.kand kd ka kb) := by
  intro _
  refine row_at 59 (by decide)
    (show encode (.kand kd ka kb) &&& 0xFFCFCCFF#32 = 0xF8000002#32 from ?_)
    (show Decoded.instr (.kand (kField 20 (encode (.kand kd ka kb))) (kField 12 (encode (.kand kd ka kb))) (kField 8 (encode (.kand kd ka kb)))) = _ from ?_)
  · simp (disch := first | assumption | decide) [encode, or_and_mask, mask_kreg]
  · simp (disch := first | assumption | decide) [encode, BitVec.extractLsb'_or, extract_place_same, extract_place_above, below_kreg, toFin_kreg, kField]

theorem kor (kd : KReg) (ka : KReg) (kb : KReg) : Statement (.kor kd ka kb) := by
  intro _
  refine row_at 60 (by decide)
    (show encode (.kor kd ka kb) &&& 0xFFCFCCFF#32 = 0xF8000003#32 from ?_)
    (show Decoded.instr (.kor (kField 20 (encode (.kor kd ka kb))) (kField 12 (encode (.kor kd ka kb))) (kField 8 (encode (.kor kd ka kb)))) = _ from ?_)
  · simp (disch := first | assumption | decide) [encode, or_and_mask, mask_kreg]
  · simp (disch := first | assumption | decide) [encode, BitVec.extractLsb'_or, extract_place_same, extract_place_above, below_kreg, toFin_kreg, kField]

theorem kxor (kd : KReg) (ka : KReg) (kb : KReg) : Statement (.kxor kd ka kb) := by
  intro _
  refine row_at 61 (by decide)
    (show encode (.kxor kd ka kb) &&& 0xFFCFCCFF#32 = 0xF8000004#32 from ?_)
    (show Decoded.instr (.kxor (kField 20 (encode (.kxor kd ka kb))) (kField 12 (encode (.kxor kd ka kb))) (kField 8 (encode (.kxor kd ka kb)))) = _ from ?_)
  · simp (disch := first | assumption | decide) [encode, or_and_mask, mask_kreg]
  · simp (disch := first | assumption | decide) [encode, BitVec.extractLsb'_or, extract_place_same, extract_place_above, below_kreg, toFin_kreg, kField]

theorem kclr (kd : KReg) : Statement (.kclr kd) := by
  intro _
  refine row_at 62 (by decide)
    (show encode (.kclr kd) &&& 0xFFCFFFFF#32 = 0xF8000005#32 from ?_)
    (show Decoded.instr (.kclr (kField 20 (encode (.kclr kd)))) = _ from ?_)
  · simp (disch := first | assumption | decide) [encode, or_and_mask, mask_kreg]
  · simp (disch := first | assumption | decide) [encode, BitVec.extractLsb'_or, extract_place_same, extract_place_above, below_kreg, toFin_kreg, kField]

theorem kset (kd : KReg) : Statement (.kset kd) := by
  intro _
  refine row_at 63 (by decide)
    (show encode (.kset kd) &&& 0xFFCFFFFF#32 = 0xF8000006#32 from ?_)
    (show Decoded.instr (.kset (kField 20 (encode (.kset kd)))) = _ from ?_)
  · simp (disch := first | assumption | decide) [encode, or_and_mask, mask_kreg]
  · simp (disch := first | assumption | decide) [encode, BitVec.extractLsb'_or, extract_place_same, extract_place_above, below_kreg, toFin_kreg, kField]

end Sys2Proof.Laws.EncodingFits
end

