-- ==== Sys2Proof/Machine/Assembler.lean ====
section
/-! DEFINITION. The assembler's spelling of a command, the reading of such a line (R89), and the pseudo-instructions (R90),
each of which is exactly one command. No step depends on them. -/

namespace Sys2Proof.Machine

/-- The spelling of an element register: f0-f15 or s0-s15 (R89). -/
def asmElem (file : String) (i : EReg) : String := file ++ toString i.val

/-- The spelling of a point register: q0-q7 or a0-a7 (R89). -/
def asmPoint (file : String) (i : PReg) : String := file ++ toString i.val

/-- The spelling of a choice bit: k0-k3 (R89). -/
def asmChoice (i : KReg) : String := "k" ++ toString i.val

/-- The spelling of FLDC's constants (R89). -/
def asmFConst : FConst → String
  | .zero => "zero"
  | .one => "one"
  | .a => "a"
  | .b => "b"

/-- The spelling of SLDC's constants (R89). -/
def asmSConst : SConst → String
  | .zero => "zero"
  | .one => "one"

/-- The spelling of AGET's coordinates (R89). -/
def asmCoord : Coord → String
  | .x => "x"
  | .y => "y"

/-- The spelling of PENC's forms (R89). -/
def asmForm : Form → String
  | .compressed => "compressed"
  | .uncompressed => "uncompressed"
  | .compact => "compact"

/-- The spelling of CFGW's slots (R89). -/
def asmSlot : Slot → String
  | .L => "L"
  | .FLAGS => "FLAGS"
  | .P => "P"
  | .N => "N"
  | .A => "A"
  | .B => "B"
  | .GX => "GX"
  | .GY => "GY"
  | .R2P => "R2P"
  | .R2N => "R2N"
  | .PINV => "PINV"
  | .NINV => "NINV"

/-- The operands of a command in the order of the syntax column of R84 (R89). -/
def asmOperands : Instr → List String
  | .nop => []
  | .fadd rd ra rb => [asmElem "f" rd, asmElem "f" ra, asmElem "f" rb]
  | .sadd rd ra rb => [asmElem "s" rd, asmElem "s" ra, asmElem "s" rb]
  | .fsub rd ra rb => [asmElem "f" rd, asmElem "f" ra, asmElem "f" rb]
  | .ssub rd ra rb => [asmElem "s" rd, asmElem "s" ra, asmElem "s" rb]
  | .fneg rd ra => [asmElem "f" rd, asmElem "f" ra]
  | .sneg rd ra => [asmElem "s" rd, asmElem "s" ra]
  | .fmul rd ra rb => [asmElem "f" rd, asmElem "f" ra, asmElem "f" rb]
  | .smul rd ra rb => [asmElem "s" rd, asmElem "s" ra, asmElem "s" rb]
  | .fsqr rd ra => [asmElem "f" rd, asmElem "f" ra]
  | .ssqr rd ra => [asmElem "s" rd, asmElem "s" ra]
  | .finv rd kd ra => [asmElem "f" rd, asmChoice kd, asmElem "f" ra]
  | .sinv rd kd ra => [asmElem "s" rd, asmChoice kd, asmElem "s" ra]
  | .fsqrt rd kd ra => [asmElem "f" rd, asmChoice kd, asmElem "f" ra]
  | .ssqrt rd kd ra => [asmElem "s" rd, asmChoice kd, asmElem "s" ra]
  | .fnorm rd ra => [asmElem "f" rd, asmElem "f" ra]
  | .snorm rd ra => [asmElem "s" rd, asmElem "s" ra]
  | .fsel rd ra rb ks => [asmElem "f" rd, asmElem "f" ra, asmElem "f" rb, asmChoice ks]
  | .ssel rd ra rb ks => [asmElem "s" rd, asmElem "s" ra, asmElem "s" rb, asmChoice ks]
  | .fisz kd ra => [asmChoice kd, asmElem "f" ra]
  | .sisz kd ra => [asmChoice kd, asmElem "s" ra]
  | .fisodd kd ra => [asmChoice kd, asmElem "f" ra]
  | .sisodd kd ra => [asmChoice kd, asmElem "s" ra]
  | .feq kd ra rb => [asmChoice kd, asmElem "f" ra, asmElem "f" rb]
  | .seq kd ra rb => [asmChoice kd, asmElem "s" ra, asmElem "s" rb]
  | .sishigh kd ra => [asmChoice kd, asmElem "s" ra]
  | .fldc rd c => [asmElem "f" rd, asmFConst c]
  | .sldc rd c => [asmElem "s" rd, asmSConst c]
  | .fdec rg kd off len => [asmElem "f" rg, asmChoice kd, toString off, toString len]
  | .sdec rg kd off len => [asmElem "s" rg, asmChoice kd, toString off, toString len]
  | .fenc rg off len => [asmElem "f" rg, toString off, toString len]
  | .senc rg off len => [asmElem "s" rg, toString off, toString len]
  | .sred rg off len => [asmElem "s" rg, toString off, toString len]
  | .srednz rg off len => [asmElem "s" rg, toString off, toString len]
  | .padd rd ra rb => [asmPoint "q" rd, asmPoint "q" ra, asmPoint "q" rb]
  | .paddm rd ra rb => [asmPoint "q" rd, asmPoint "q" ra, asmPoint "a" rb]
  | .pdbl rd ra => [asmPoint "q" rd, asmPoint "q" ra]
  | .pneg rd ra => [asmPoint "q" rd, asmPoint "q" ra]
  | .pmul rd ra rb => [asmPoint "q" rd, asmPoint "q" ra, asmElem "s" rb]
  | .ptoaff rd ra => [asmPoint "a" rd, asmPoint "q" ra]
  | .pfroma rd ra => [asmPoint "q" rd, asmPoint "a" ra]
  | .psel rd ra rb ks => [asmPoint "q" rd, asmPoint "q" ra, asmPoint "q" rb, asmChoice ks]
  | .pisid kd ra => [asmChoice kd, asmPoint "q" ra]
  | .peq kd ra rb => [asmChoice kd, asmPoint "q" ra, asmPoint "q" rb]
  | .pldi rd => [asmPoint "q" rd]
  | .aldi rd => [asmPoint "a" rd]
  | .aldg rd => [asmPoint "a" rd]
  | .aneg rd ra => [asmPoint "a" rd, asmPoint "a" ra]
  | .aonc kd ra => [asmChoice kd, asmPoint "a" ra]
  | .aisid kd ra => [asmChoice kd, asmPoint "a" ra]
  | .asel rd ra rb ks => [asmPoint "a" rd, asmPoint "a" ra, asmPoint "a" rb, asmChoice ks]
  | .aget rd ra c => [asmElem "f" rd, asmPoint "a" ra, asmCoord c]
  | .aset rd kd ra rb => [asmPoint "a" rd, asmChoice kd, asmElem "f" ra, asmElem "f" rb]
  | .penc rg kd off form => [asmPoint "a" rg, asmChoice kd, toString off, asmForm form]
  | .pdec rg kd off len => [asmPoint "a" rg, asmChoice kd, toString off, toString len]
  | .cfgw slot off len => [asmSlot slot, toString off, toString len]
  | .cfglock => []
  | .kmov kd ka => [asmChoice kd, asmChoice ka]
  | .knot kd ka => [asmChoice kd, asmChoice ka]
  | .kand kd ka kb => [asmChoice kd, asmChoice ka, asmChoice kb]
  | .kor kd ka kb => [asmChoice kd, asmChoice ka, asmChoice kb]
  | .kxor kd ka kb => [asmChoice kd, asmChoice ka, asmChoice kb]
  | .kclr kd => [asmChoice kd]
  | .kset kd => [asmChoice kd]

/-- The mnemonic of a command (R84). -/
def mnemonicOf : Instr → String
  | .nop => "NOP"
  | .fadd _ _ _ => "FADD"
  | .sadd _ _ _ => "SADD"
  | .fsub _ _ _ => "FSUB"
  | .ssub _ _ _ => "SSUB"
  | .fneg _ _ => "FNEG"
  | .sneg _ _ => "SNEG"
  | .fmul _ _ _ => "FMUL"
  | .smul _ _ _ => "SMUL"
  | .fsqr _ _ => "FSQR"
  | .ssqr _ _ => "SSQR"
  | .finv _ _ _ => "FINV"
  | .sinv _ _ _ => "SINV"
  | .fsqrt _ _ _ => "FSQRT"
  | .ssqrt _ _ _ => "SSQRT"
  | .fnorm _ _ => "FNORM"
  | .snorm _ _ => "SNORM"
  | .fsel _ _ _ _ => "FSEL"
  | .ssel _ _ _ _ => "SSEL"
  | .fisz _ _ => "FISZ"
  | .sisz _ _ => "SISZ"
  | .fisodd _ _ => "FISODD"
  | .sisodd _ _ => "SISODD"
  | .feq _ _ _ => "FEQ"
  | .seq _ _ _ => "SEQ"
  | .sishigh _ _ => "SISHIGH"
  | .fldc _ _ => "FLDC"
  | .sldc _ _ => "SLDC"
  | .fdec _ _ _ _ => "FDEC"
  | .sdec _ _ _ _ => "SDEC"
  | .fenc _ _ _ => "FENC"
  | .senc _ _ _ => "SENC"
  | .sred _ _ _ => "SRED"
  | .srednz _ _ _ => "SREDNZ"
  | .padd _ _ _ => "PADD"
  | .paddm _ _ _ => "PADDM"
  | .pdbl _ _ => "PDBL"
  | .pneg _ _ => "PNEG"
  | .pmul _ _ _ => "PMUL"
  | .ptoaff _ _ => "PTOAFF"
  | .pfroma _ _ => "PFROMA"
  | .psel _ _ _ _ => "PSEL"
  | .pisid _ _ => "PISID"
  | .peq _ _ _ => "PEQ"
  | .pldi _ => "PLDI"
  | .aldi _ => "ALDI"
  | .aldg _ => "ALDG"
  | .aneg _ _ => "ANEG"
  | .aonc _ _ => "AONC"
  | .aisid _ _ => "AISID"
  | .asel _ _ _ _ => "ASEL"
  | .aget _ _ _ => "AGET"
  | .aset _ _ _ _ => "ASET"
  | .penc _ _ _ _ => "PENC"
  | .pdec _ _ _ _ => "PDEC"
  | .cfgw _ _ _ => "CFGW"
  | .cfglock => "CFGLOCK"
  | .kmov _ _ => "KMOV"
  | .knot _ _ => "KNOT"
  | .kand _ _ _ => "KAND"
  | .kor _ _ _ => "KOR"
  | .kxor _ _ _ => "KXOR"
  | .kclr _ => "KCLR"
  | .kset _ => "KSET"

/-- One line of assembler: the mnemonic, then the operands separated by commas (R89). -/
def assemblyLine (i : Instr) : String :=
  match asmOperands i with
  | [] => mnemonicOf i
  | ops => mnemonicOf i ++ " " ++ ", ".intercalate ops

/-! ### Reading a line (R89) -/

/-- What the assembler expects at an operand's place. -/
inductive OperandKind where
  | elem (file : Char)
  | point (file : Char)
  | choice
  | fconst
  | sconst
  | coord
  | form
  | slot
  | num
deriving DecidableEq, Repr

/-- An operand that was read. -/
inductive Operand where
  | elem (i : EReg)
  | point (i : PReg)
  | choice (i : KReg)
  | fconst (c : FConst)
  | sconst (c : SConst)
  | coord (c : Coord)
  | form (f : Form)
  | slot (s : Slot)
  | num (n : Nat)
deriving DecidableEq, Repr

/-- The value of a hexadecimal digit, which for a decimal one is below 10. -/
def digitOf (c : Char) : Option Nat :=
  if '0' ≤ c ∧ c ≤ '9' then some (c.toNat - '0'.toNat)
  else if 'a' ≤ c ∧ c ≤ 'f' then some (c.toNat - 'a'.toNat + 10)
  else if 'A' ≤ c ∧ c ≤ 'F' then some (c.toNat - 'A'.toNat + 10)
  else none

/-- The digits of a number in a base, on top of the value read so far. -/
def readDigits (base : Nat) : List Char → Nat → Option Nat
  | [], acc => some acc
  | c :: rest, acc =>
    match digitOf c with
    | some d => if d < base then readDigits base rest (acc * base + d) else none
    | none => none

/-- A number, decimal or `0x` hexadecimal (R89). -/
def readNum : List Char → Option Nat
  | [] => none
  | ['0', 'x'] => none
  | '0' :: 'x' :: c :: rest => readDigits 16 (c :: rest) 0
  | c :: rest => readDigits 10 (c :: rest) 0

/-- A register name: its file's letter, then its index (R89). -/
def readIndex (file : Char) (n : Nat) : List Char → Option (Fin n)
  | [] => none
  | c :: rest =>
    if c = file ∧ rest ≠ [] then
      match readDigits 10 rest 0 with
      | some i => if h : i < n then some ⟨i, h⟩ else none
      | none => none
    else none

/-- The name that a word spells among those of a list. -/
def readName {α : Type} (names : List (String × α)) (w : List Char) : Option α :=
  (names.find? fun e => e.1.toList == w).map (·.2)

/-- An operand of a kind (R89). -/
def readOperand (k : OperandKind) (w : List Char) : Option Operand :=
  match k with
  | .elem file => (readIndex file 16 w).map .elem
  | .point file => (readIndex file 8 w).map .point
  | .choice => (readIndex 'k' 4 w).map .choice
  | .fconst => (readName [("zero", FConst.zero), ("one", .one), ("a", .a), ("b", .b)] w).map .fconst
  | .sconst => (readName [("zero", SConst.zero), ("one", .one)] w).map .sconst
  | .coord => (readName [("x", Coord.x), ("y", .y)] w).map .coord
  | .form =>
    (readName [("compressed", Form.compressed), ("uncompressed", .uncompressed), ("compact", .compact)] w).map .form
  | .slot =>
    (readName [("L", Slot.L), ("FLAGS", .FLAGS), ("P", .P), ("N", .N), ("A", .A), ("B", .B), ("GX", .GX), ("GY", .GY),
      ("R2P", .R2P), ("R2N", .R2N), ("PINV", .PINV), ("NINV", .NINV)] w).map .slot
  | .num => (readNum w).map .num

/-- The operands of a line, one for each kind. -/
def readOperands : List OperandKind → List (List Char) → Option (List Operand)
  | [], [] => some []
  | k :: ks, w :: ws =>
    match readOperand k w, readOperands ks ws with
    | some o, some os => some (o :: os)
    | _, _ => none
  | _, _ => none

/-- The operand kinds of a mnemonic: the syntax column of R84. -/
def operandKinds : String → Option (List OperandKind)
  | "NOP" => some []
  | "FADD" => some [.elem 'f', .elem 'f', .elem 'f']
  | "SADD" => some [.elem 's', .elem 's', .elem 's']
  | "FSUB" => some [.elem 'f', .elem 'f', .elem 'f']
  | "SSUB" => some [.elem 's', .elem 's', .elem 's']
  | "FNEG" => some [.elem 'f', .elem 'f']
  | "SNEG" => some [.elem 's', .elem 's']
  | "FMUL" => some [.elem 'f', .elem 'f', .elem 'f']
  | "SMUL" => some [.elem 's', .elem 's', .elem 's']
  | "FSQR" => some [.elem 'f', .elem 'f']
  | "SSQR" => some [.elem 's', .elem 's']
  | "FINV" => some [.elem 'f', .choice, .elem 'f']
  | "SINV" => some [.elem 's', .choice, .elem 's']
  | "FSQRT" => some [.elem 'f', .choice, .elem 'f']
  | "SSQRT" => some [.elem 's', .choice, .elem 's']
  | "FNORM" => some [.elem 'f', .elem 'f']
  | "SNORM" => some [.elem 's', .elem 's']
  | "FSEL" => some [.elem 'f', .elem 'f', .elem 'f', .choice]
  | "SSEL" => some [.elem 's', .elem 's', .elem 's', .choice]
  | "FISZ" => some [.choice, .elem 'f']
  | "SISZ" => some [.choice, .elem 's']
  | "FISODD" => some [.choice, .elem 'f']
  | "SISODD" => some [.choice, .elem 's']
  | "FEQ" => some [.choice, .elem 'f', .elem 'f']
  | "SEQ" => some [.choice, .elem 's', .elem 's']
  | "SISHIGH" => some [.choice, .elem 's']
  | "FLDC" => some [.elem 'f', .fconst]
  | "SLDC" => some [.elem 's', .sconst]
  | "FDEC" => some [.elem 'f', .choice, .num, .num]
  | "SDEC" => some [.elem 's', .choice, .num, .num]
  | "FENC" => some [.elem 'f', .num, .num]
  | "SENC" => some [.elem 's', .num, .num]
  | "SRED" => some [.elem 's', .num, .num]
  | "SREDNZ" => some [.elem 's', .num, .num]
  | "PADD" => some [.point 'q', .point 'q', .point 'q']
  | "PADDM" => some [.point 'q', .point 'q', .point 'a']
  | "PDBL" => some [.point 'q', .point 'q']
  | "PNEG" => some [.point 'q', .point 'q']
  | "PMUL" => some [.point 'q', .point 'q', .elem 's']
  | "PTOAFF" => some [.point 'a', .point 'q']
  | "PFROMA" => some [.point 'q', .point 'a']
  | "PSEL" => some [.point 'q', .point 'q', .point 'q', .choice]
  | "PISID" => some [.choice, .point 'q']
  | "PEQ" => some [.choice, .point 'q', .point 'q']
  | "PLDI" => some [.point 'q']
  | "ALDI" => some [.point 'a']
  | "ALDG" => some [.point 'a']
  | "ANEG" => some [.point 'a', .point 'a']
  | "AONC" => some [.choice, .point 'a']
  | "AISID" => some [.choice, .point 'a']
  | "ASEL" => some [.point 'a', .point 'a', .point 'a', .choice]
  | "AGET" => some [.elem 'f', .point 'a', .coord]
  | "ASET" => some [.point 'a', .choice, .elem 'f', .elem 'f']
  | "PENC" => some [.point 'a', .choice, .num, .form]
  | "PDEC" => some [.point 'a', .choice, .num, .num]
  | "CFGW" => some [.slot, .num, .num]
  | "CFGLOCK" => some []
  | "KMOV" => some [.choice, .choice]
  | "KNOT" => some [.choice, .choice]
  | "KAND" => some [.choice, .choice, .choice]
  | "KOR" => some [.choice, .choice, .choice]
  | "KXOR" => some [.choice, .choice, .choice]
  | "KCLR" => some [.choice]
  | "KSET" => some [.choice]
  | _ => none

/-- The command of a mnemonic with its operands. -/
def buildInstr : String → List Operand → Option Instr
  | "NOP", [] => some (.nop)
  | "FADD", [.elem rd, .elem ra, .elem rb] => some (.fadd rd ra rb)
  | "SADD", [.elem rd, .elem ra, .elem rb] => some (.sadd rd ra rb)
  | "FSUB", [.elem rd, .elem ra, .elem rb] => some (.fsub rd ra rb)
  | "SSUB", [.elem rd, .elem ra, .elem rb] => some (.ssub rd ra rb)
  | "FNEG", [.elem rd, .elem ra] => some (.fneg rd ra)
  | "SNEG", [.elem rd, .elem ra] => some (.sneg rd ra)
  | "FMUL", [.elem rd, .elem ra, .elem rb] => some (.fmul rd ra rb)
  | "SMUL", [.elem rd, .elem ra, .elem rb] => some (.smul rd ra rb)
  | "FSQR", [.elem rd, .elem ra] => some (.fsqr rd ra)
  | "SSQR", [.elem rd, .elem ra] => some (.ssqr rd ra)
  | "FINV", [.elem rd, .choice kd, .elem ra] => some (.finv rd kd ra)
  | "SINV", [.elem rd, .choice kd, .elem ra] => some (.sinv rd kd ra)
  | "FSQRT", [.elem rd, .choice kd, .elem ra] => some (.fsqrt rd kd ra)
  | "SSQRT", [.elem rd, .choice kd, .elem ra] => some (.ssqrt rd kd ra)
  | "FNORM", [.elem rd, .elem ra] => some (.fnorm rd ra)
  | "SNORM", [.elem rd, .elem ra] => some (.snorm rd ra)
  | "FSEL", [.elem rd, .elem ra, .elem rb, .choice ks] => some (.fsel rd ra rb ks)
  | "SSEL", [.elem rd, .elem ra, .elem rb, .choice ks] => some (.ssel rd ra rb ks)
  | "FISZ", [.choice kd, .elem ra] => some (.fisz kd ra)
  | "SISZ", [.choice kd, .elem ra] => some (.sisz kd ra)
  | "FISODD", [.choice kd, .elem ra] => some (.fisodd kd ra)
  | "SISODD", [.choice kd, .elem ra] => some (.sisodd kd ra)
  | "FEQ", [.choice kd, .elem ra, .elem rb] => some (.feq kd ra rb)
  | "SEQ", [.choice kd, .elem ra, .elem rb] => some (.seq kd ra rb)
  | "SISHIGH", [.choice kd, .elem ra] => some (.sishigh kd ra)
  | "FLDC", [.elem rd, .fconst c] => some (.fldc rd c)
  | "SLDC", [.elem rd, .sconst c] => some (.sldc rd c)
  | "FDEC", [.elem rg, .choice kd, .num off, .num len] => some (.fdec rg kd off len)
  | "SDEC", [.elem rg, .choice kd, .num off, .num len] => some (.sdec rg kd off len)
  | "FENC", [.elem rg, .num off, .num len] => some (.fenc rg off len)
  | "SENC", [.elem rg, .num off, .num len] => some (.senc rg off len)
  | "SRED", [.elem rg, .num off, .num len] => some (.sred rg off len)
  | "SREDNZ", [.elem rg, .num off, .num len] => some (.srednz rg off len)
  | "PADD", [.point rd, .point ra, .point rb] => some (.padd rd ra rb)
  | "PADDM", [.point rd, .point ra, .point rb] => some (.paddm rd ra rb)
  | "PDBL", [.point rd, .point ra] => some (.pdbl rd ra)
  | "PNEG", [.point rd, .point ra] => some (.pneg rd ra)
  | "PMUL", [.point rd, .point ra, .elem rb] => some (.pmul rd ra rb)
  | "PTOAFF", [.point rd, .point ra] => some (.ptoaff rd ra)
  | "PFROMA", [.point rd, .point ra] => some (.pfroma rd ra)
  | "PSEL", [.point rd, .point ra, .point rb, .choice ks] => some (.psel rd ra rb ks)
  | "PISID", [.choice kd, .point ra] => some (.pisid kd ra)
  | "PEQ", [.choice kd, .point ra, .point rb] => some (.peq kd ra rb)
  | "PLDI", [.point rd] => some (.pldi rd)
  | "ALDI", [.point rd] => some (.aldi rd)
  | "ALDG", [.point rd] => some (.aldg rd)
  | "ANEG", [.point rd, .point ra] => some (.aneg rd ra)
  | "AONC", [.choice kd, .point ra] => some (.aonc kd ra)
  | "AISID", [.choice kd, .point ra] => some (.aisid kd ra)
  | "ASEL", [.point rd, .point ra, .point rb, .choice ks] => some (.asel rd ra rb ks)
  | "AGET", [.elem rd, .point ra, .coord c] => some (.aget rd ra c)
  | "ASET", [.point rd, .choice kd, .elem ra, .elem rb] => some (.aset rd kd ra rb)
  | "PENC", [.point rg, .choice kd, .num off, .form form] => some (.penc rg kd off form)
  | "PDEC", [.point rg, .choice kd, .num off, .num len] => some (.pdec rg kd off len)
  | "CFGW", [.slot slot, .num off, .num len] => some (.cfgw slot off len)
  | "CFGLOCK", [] => some (.cfglock)
  | "KMOV", [.choice kd, .choice ka] => some (.kmov kd ka)
  | "KNOT", [.choice kd, .choice ka] => some (.knot kd ka)
  | "KAND", [.choice kd, .choice ka, .choice kb] => some (.kand kd ka kb)
  | "KOR", [.choice kd, .choice ka, .choice kb] => some (.kor kd ka kb)
  | "KXOR", [.choice kd, .choice ka, .choice kb] => some (.kxor kd ka kb)
  | "KCLR", [.choice kd] => some (.kclr kd)
  | "KSET", [.choice kd] => some (.kset kd)
  | _, _ => none

/-- The pieces of a list between the separators. -/
def pieces (sep : Char) : List Char → List (List Char)
  | [] => [[]]
  | c :: rest =>
    match pieces sep rest with
    | [] => [[c]]
    | p :: ps => if c = sep then [] :: p :: ps else (c :: p) :: ps

/-- A word without the spaces around it. -/
def trimSpaces (w : List Char) : List Char :=
  ((w.dropWhile (· = ' ')).reverse.dropWhile (· = ' ')).reverse

/-- The command that a line of assembler spells: a mnemonic, its operands between commas, and a comment from `;` on that
counts for nothing (R89). A line it does not spell out gives none, and so does a number that has no encoding. -/
def assemble (line : String) : Option Instr :=
  let code := trimSpaces (line.toList.takeWhile (· ≠ ';'))
  let word := code.takeWhile (· ≠ ' ')
  let rest := trimSpaces (code.drop word.length)
  let mnemonic := String.ofList word
  match operandKinds mnemonic with
  | none => none
  | some kinds =>
    let ops := if rest = [] then [] else (pieces ',' rest).map trimSpaces
    match readOperands kinds ops with
    | none => none
    | some os =>
      match buildInstr mnemonic os with
      | some i => if i.wf then some i else none
      | none => none

/-! ### Pseudo-instructions (R90) -/

/-- FMOV fd, fa. -/
def pseudoFmov (fd fa : EReg) : Instr := .fnorm fd fa

/-- SMOV sd, sa. -/
def pseudoSmov (sd sa : EReg) : Instr := .snorm sd sa

/-- FZERO fd. -/
def pseudoFzero (fd : EReg) : Instr := .fldc fd .zero

/-- FONE fd. -/
def pseudoFone (fd : EReg) : Instr := .fldc fd .one

/-- SZERO sd. -/
def pseudoSzero (sd : EReg) : Instr := .sldc sd .zero

/-- SONE sd. -/
def pseudoSone (sd : EReg) : Instr := .sldc sd .one

/-- FDBL fd, fa. -/
def pseudoFdbl (fd fa : EReg) : Instr := .fadd fd fa fa

/-- SDBL sd, sa. -/
def pseudoSdbl (sd sa : EReg) : Instr := .sadd sd sa sa

/-- PMOV qd, qa. -/
def pseudoPmov (qd qa : PReg) : Instr := .psel qd qa qa 0

/-- AMOV ad, aa. -/
def pseudoAmov (ad aa : PReg) : Instr := .asel ad aa aa 0

/-- FENCW fd, off: the assembler must know EB. -/
def pseudoFencw (c : Cfg) (fd : EReg) (off : Nat) : Instr := .fenc fd off c.eb

/-- FDECW fd, kd, off: the assembler must know EB. -/
def pseudoFdecw (c : Cfg) (fd : EReg) (kd : KReg) (off : Nat) : Instr := .fdec fd kd off c.eb

end Sys2Proof.Machine
end

