-- ==== Sys2Proof/Tests/Slice0.lean ====
section
/-! SUPPORT. The model's own tests, with expected values from the spec's examples and vectors, and for each statement with
hypotheses a witness that meets them together. -/

namespace Sys2Proof.Tests

open Sys2Proof Sys2Proof.Machine

set_option maxRecDepth 8000
set_option Elab.async false

/-! ### Well-formedness refuses what has no encoding -/

theorem test_wf_refuses :
    Instr.wf (.fdec 0 0 256 1) = false ∧ Instr.wf (.fdec 0 0 0 256) = false ∧
    Instr.wf (.sdec 0 0 256 1) = false ∧ Instr.wf (.sdec 0 0 0 256) = false ∧
    Instr.wf (.fenc 0 256 1) = false ∧ Instr.wf (.fenc 0 0 256) = false ∧
    Instr.wf (.senc 0 256 1) = false ∧ Instr.wf (.senc 0 0 256) = false ∧
    Instr.wf (.sred 0 256 1) = false ∧ Instr.wf (.sred 0 0 256) = false ∧
    Instr.wf (.srednz 0 256 1) = false ∧ Instr.wf (.srednz 0 0 256) = false ∧
    Instr.wf (.penc 0 0 256 .compact) = false ∧
    Instr.wf (.pdec 0 0 256 1) = false ∧ Instr.wf (.pdec 0 0 0 256) = false ∧
    Instr.wf (.cfgw .P 256 1) = false ∧ Instr.wf (.cfgw .P 0 256) = false := by decide

theorem test_wf_accepts_last : Instr.wf (.fdec 15 3 255 255) = true := by decide

/-! ### Decoding -/

/-- One word of each element command, its fixed bits as R84 prints them and its operand fields filled in. -/
theorem test_decode_element :
    decode 0b00000100000010110110110100000000 = .instr (.fadd 11 6 13) ∧
    decode 0b00000110000010110110110100000000 = .instr (.sadd 11 6 13) ∧
    decode 0b00001000000010110110110100000000 = .instr (.fsub 11 6 13) ∧
    decode 0b00001010000010110110110100000000 = .instr (.ssub 11 6 13) ∧
    decode 0b00001100000010110110000000000000 = .instr (.fneg 11 6) ∧
    decode 0b00001110000010110110000000000000 = .instr (.sneg 11 6) ∧
    decode 0b00010000000010110110110100000000 = .instr (.fmul 11 6 13) ∧
    decode 0b00010010000010110110110100000000 = .instr (.smul 11 6 13) ∧
    decode 0b00010100000010110110000000000000 = .instr (.fsqr 11 6) ∧
    decode 0b00010110000010110110000000000000 = .instr (.ssqr 11 6) ∧
    decode 0b00011000000110110110000000000000 = .instr (.finv 11 1 6) ∧
    decode 0b00011010000110110110000000000000 = .instr (.sinv 11 1 6) ∧
    decode 0b00011100000110110110000000000000 = .instr (.fsqrt 11 1 6) ∧
    decode 0b00011110000110110110000000000000 = .instr (.ssqrt 11 1 6) ∧
    decode 0b00100000000010110110000000000000 = .instr (.fnorm 11 6) ∧
    decode 0b00100010000010110110000000000000 = .instr (.snorm 11 6) ∧
    decode 0b00100100100010110110110100000000 = .instr (.fsel 11 6 13 2) ∧
    decode 0b00100110100010110110110100000000 = .instr (.ssel 11 6 13 2) ∧
    decode 0b00101000000100000110000000000000 = .instr (.fisz 1 6) ∧
    decode 0b00101010000100000110000000000000 = .instr (.sisz 1 6) ∧
    decode 0b00101100000100000110000000000000 = .instr (.fisodd 1 6) ∧
    decode 0b00101110000100000110000000000000 = .instr (.sisodd 1 6) ∧
    decode 0b00110000000100000110110100000000 = .instr (.feq 1 6 13) ∧
    decode 0b00110010000100000110110100000000 = .instr (.seq 1 6 13) ∧
    decode 0b00110110000100000110000000000000 = .instr (.sishigh 1 6) ∧
    decode 0b00111000000000110000000000000011 = .instr (.fldc 3 .b) ∧
    decode 0b00111010000010110000000000000001 = .instr (.sldc 11 .one) := by decide +kernel

/-- One word of each buffer element command, its fixed bits as R84 prints them and its operand fields filled in. -/
theorem test_decode_buffer_element :
    decode 0b01000000000110111010010100111100 = .instr (.fdec 11 1 60 165) ∧
    decode 0b01000010000110111010010100111100 = .instr (.sdec 11 1 60 165) ∧
    decode 0b01000100000010111010010100111100 = .instr (.fenc 11 60 165) ∧
    decode 0b01000110000010111010010100111100 = .instr (.senc 11 60 165) ∧
    decode 0b01001010000010111010010100111100 = .instr (.sred 11 60 165) ∧
    decode 0b01001110000010111010010100111100 = .instr (.srednz 11 60 165) := by decide +kernel

/-- One word of each projective command, its fixed bits as R84 prints them and its operand fields filled in. -/
theorem test_decode_projective :
    decode 0b10000000000000110110010100000000 = .instr (.padd 3 6 5) ∧
    decode 0b10000100000000110110010100000000 = .instr (.paddm 3 6 5) ∧
    decode 0b10001000000000110110000000000000 = .instr (.pdbl 3 6) ∧
    decode 0b10001100000000110110000000000000 = .instr (.pneg 3 6) ∧
    decode 0b10010000000000110110110100000000 = .instr (.pmul 3 6 13) ∧
    decode 0b10010100000000110110000000000000 = .instr (.ptoaff 3 6) ∧
    decode 0b10011000000000110110000000000000 = .instr (.pfroma 3 6) ∧
    decode 0b10011100100000110110010100000000 = .instr (.psel 3 6 5 2) ∧
    decode 0b10100000000100000110000000000000 = .instr (.pisid 1 6) ∧
    decode 0b10100100000100000110010100000000 = .instr (.peq 1 6 5) ∧
    decode 0b10101000000000110000000000000000 = .instr (.pldi 3) := by decide +kernel

/-- One word of each affine command, its fixed bits as R84 prints them and its operand fields filled in. -/
theorem test_decode_affine :
    decode 0b11000000000000110000000000000000 = .instr (.aldi 3) ∧
    decode 0b11000100000000110000000000000000 = .instr (.aldg 3) ∧
    decode 0b11001000000000110110000000000000 = .instr (.aneg 3 6) ∧
    decode 0b11001100000100000110000000000000 = .instr (.aonc 1 6) ∧
    decode 0b11010000000100000110000000000000 = .instr (.aisid 1 6) ∧
    decode 0b11010100100000110110010100000000 = .instr (.asel 3 6 5 2) ∧
    decode 0b11011000000010110110000000000001 = .instr (.aget 11 6 .y) ∧
    decode 0b11011100000100110110110100000000 = .instr (.aset 3 1 6 13) := by decide +kernel

/-- One word of each codec control command, its fixed bits as R84 prints them and its operand fields filled in. -/
theorem test_decode_codec_control :
    decode 0b00000000000000000000000000000000 = .instr .nop ∧
    decode 0b11100001000100110000000000111100 = .instr (.penc 3 1 60 .compact) ∧
    decode 0b11100100000100111010010100111100 = .instr (.pdec 3 1 60 165) ∧
    decode 0b11110000000010111010010100111100 = .instr (.cfgw .NINV 60 165) ∧
    decode 0b11110100000000000000000000000000 = .instr .cfglock ∧
    decode 0b11111000000100000010000000000000 = .instr (.kmov 1 2) ∧
    decode 0b11111000000100000010000000000001 = .instr (.knot 1 2) ∧
    decode 0b11111000000100000010000100000010 = .instr (.kand 1 2 1) ∧
    decode 0b11111000000100000010000100000011 = .instr (.kor 1 2 1) ∧
    decode 0b11111000000100000010000100000100 = .instr (.kxor 1 2 1) ∧
    decode 0b11111000000100000000000000000101 = .instr (.kclr 1) ∧
    decode 0b11111000000100000000000000000110 = .instr (.kset 1) := by decide +kernel

/-- The reserved words that R86 lists, one for each kind, decode to no command. -/
theorem test_decode_illegal :
    ([0xFFFFFFFF, 0x3C000000, 0xEC000000, 0x00000001, 0x82000000, 0x34000000, 0x48000000, 0x4C000000, 0x05000000,
      0xE1800000, 0x80080000, 0x80008000, 0x38000004, 0x3A000002, 0xD8000002, 0xF8000007, 0xF00C0000] : List Word).all
      (fun w => match decode w with
        | .illegal _ => true
        | .instr _ => false) = true := by decide +kernel

theorem test_assembler_reads : assemble "FDEC f1, k0, 0x20, 32 ; comment" = some (.fdec 1 0 32 32) := by
  decide +kernel

theorem test_assembler_writes : assemble (assemblyLine (.fsel 1 2 3 2)) = some (.fsel 1 2 3 2) := by decide +kernel

/-! ### States -/

/-- The slots of the toy curve T1 for W = 64 (V-C1). -/
def t1Cfg : Cfg := ⟨7, 1, 103, 113, 100, 15, 1, 42, 0x26, 0x6D, 0x254813E22CBCE4A9, 0x6F0243F6F0243F6F⟩

/-- A core with T1 loaded and not yet locked. -/
def t1Open : State := { State.reset with cfg := t1Cfg }

/-- A core locked on T1. -/
def t1 : State := { t1Open with locked := true }

/-- A core locked on T1 with operands in its registers and buffer. -/
def demo : State :=
  { t1 with
    fRegs := ((t1.fRegs.set 1 9).set 2 5).set 3 101 |>.set 4 61
    sRegs := ((t1.sRegs.set 1 4).set 2 3).set 3 112
    qRegs := ((t1.qRegs.set 0 ⟨1, 42, 1⟩).set 1 ⟨19, 90, 42⟩).set 6 ⟨0, 90, 0⟩
    aRegs := (t1.aRegs.set 0 ⟨1, 42, false⟩).set 2 ⟨101, 61, false⟩
    kBits := t1.kBits.set 1 true
    buf := (t1.buf.writeBytes 0 [0x66, 0x67, 0x70, 0x71, 0x03, 0x65, 0x04, 0x01, 0x2A, 0x04, 0x01, 0x2B]).writeBytes 16
      [0x02, 0x67, 0x02, 0x04, 0x06, 0x01, 0x05, 0x65, 0x02, 0x01] }

/-- A core locked on a composite modulus, P = 15 and N = 9, with operands that have no inverse. -/
def composite : State :=
  { State.reset with
    cfg := ⟨4, 0, 15, 9, 0, 1, 0, 1, 1, 4, 1229782938247303441, 8198552921648689607⟩
    locked := true
    fRegs := State.reset.fRegs.set 1 3
    sRegs := State.reset.sRegs.set 1 3
    qRegs := State.reset.qRegs.set 1 ⟨1, 1, 3⟩ }

/-- T1 with the prime 97, which is not the number of its points, in the place of N. -/
def unsound : State := { demo with cfg := { t1Cfg with n := 97, r2n := 35, ninv := 0x5C5F02A3A0FD5C5F }, sRegs := State.reset.sRegs }

/-- `s` with a command word in flight and its time over. -/
def running (s : State) (w : Word) : State := { s with inflight := some ⟨w, 0⟩ }

/-- `s` with an error standing. -/
def failing (s : State) : State := { s with err := true, errCode := .busy, errCmd := 7 }

/-- The command's next state satisfies the test. -/
def after (i : Instr) (s : State) (f : State → Bool) : Bool :=
  match exec i s with
  | .next t => f t
  | .fault _ => false
  | .refused _ => false

/-- The next step's state satisfies the test. -/
def afterStep (s : State) (f : State → Bool) : Bool :=
  match step s with
  | .next t => f t
  | .fault _ => false
  | .refused _ => false

/-- F[i] for a test. -/
def f (s : State) (i : EReg) (v : Nat) : State := s.setElem .field i v

/-- S[i] for a test. -/
def sc (s : State) (i : EReg) (v : Nat) : State := s.setElem .scalar i v

/-! ### One step of each command, from the worked examples of its rule -/

theorem test_nop : after .nop t1Open (fun t => t == { t1Open with done := true }) = true := by decide +kernel

theorem test_fadd : after (.fadd 0 1 2) (f (f t1 1 100) 2 5) (fun t => t.elem .field 0 == 2) = true := by decide +kernel

theorem test_sadd : after (.sadd 1 1 1) (sc t1 1 112) (fun t => t.elem .scalar 1 == 111) = true := by decide +kernel

theorem test_fsub : after (.fsub 0 1 2) (f (f t1 1 3) 2 5) (fun t => t.elem .field 0 == 101) = true := by decide +kernel

theorem test_ssub : after (.ssub 0 1 2) (sc (sc t1 1 3) 2 5) (fun t => t.elem .scalar 0 == 111) = true := by decide +kernel

theorem test_fneg : after (.fneg 0 1) (f t1 1 1) (fun t => t.elem .field 0 == 102) = true := by decide +kernel

theorem test_sneg_zero : after (.sneg 0 1) t1 (fun t => t.elem .scalar 0 == 0) = true := by decide +kernel

theorem test_fmul : after (.fmul 0 1 2) (f (f t1 1 50) 2 60) (fun t => t.elem .field 0 == 13) = true := by decide +kernel

theorem test_smul : after (.smul 2 1 2) (sc (sc t1 1 50) 2 60) (fun t => t.elem .scalar 2 == 62) = true := by
  decide +kernel

theorem test_fsqr : after (.fsqr 0 1) (f t1 1 100) (fun t => t.elem .field 0 == 9) = true := by decide +kernel

theorem test_ssqr : after (.ssqr 0 1) (sc t1 1 112) (fun t => t.elem .scalar 0 == 1) = true := by decide +kernel

theorem test_finv :
    after (.finv 0 0 1) (f t1 1 2) (fun t => t.elem .field 0 == 52 && t.choice 0) = true := by decide +kernel

theorem test_finv_zero :
    after (.finv 1 1 0) (f demo 1 7) (fun t => t.elem .field 1 == 0 && !t.choice 1) = true := by decide +kernel

theorem test_sinv :
    after (.sinv 0 0 1) (sc t1 1 2) (fun t => t.elem .scalar 0 == 57 && t.choice 0) = true := by decide +kernel

theorem test_fsqrt :
    after (.fsqrt 0 0 1) (f t1 1 9) (fun t => t.elem .field 0 == 100 && t.choice 0) = true := by decide +kernel

theorem test_fsqrt_none :
    after (.fsqrt 1 1 2) demo (fun t => t.elem .field 1 == 0 && !t.choice 1) = true := by decide +kernel

theorem test_ssqrt :
    after (.ssqrt 0 0 1) (sc t1 1 4) (fun t => t.elem .scalar 0 == 2 && t.choice 0) = true := by decide +kernel

theorem test_fnorm : after (.fnorm 0 1) (f t1 1 77) (fun t => t.elem .field 0 == 77) = true := by decide +kernel

theorem test_snorm : after (.snorm 0 1) (sc t1 1 77) (fun t => t.elem .scalar 0 == 77) = true := by decide +kernel

theorem test_fsel :
    after (.fsel 1 2 3 1) (f (f demo 2 7) 3 9) (fun t => t.elem .field 1 == 9) = true := by decide +kernel

theorem test_ssel :
    after (.ssel 1 2 3 0) (sc (sc demo 2 7) 3 9) (fun t => t.elem .scalar 1 == 7) = true := by decide +kernel

theorem test_fisz : after (.fisz 2 0) t1 (fun t => t.choice 2) = true := by decide +kernel

theorem test_sisz : after (.sisz 1 1) demo (fun t => !t.choice 1) = true := by decide +kernel

theorem test_fisodd : after (.fisodd 0 1) (f t1 1 3) (fun t => t.choice 0) = true := by decide +kernel

theorem test_sisodd : after (.sisodd 1 1) (sc demo 1 100) (fun t => !t.choice 1) = true := by decide +kernel

theorem test_feq : after (.feq 1 1 2) (f (f t1 1 5) 2 5) (fun t => t.choice 1) = true := by decide +kernel

theorem test_seq : after (.seq 1 1 2) demo (fun t => !t.choice 1) = true := by decide +kernel

theorem test_sishigh_low : after (.sishigh 1 1) (sc demo 1 56) (fun t => !t.choice 1) = true := by decide +kernel

theorem test_sishigh_high : after (.sishigh 0 1) (sc t1 1 57) (fun t => t.choice 0) = true := by decide +kernel

theorem test_fldc : after (.fldc 5 .a) t1 (fun t => t.elem .field 5 == 100) = true := by decide +kernel

theorem test_sldc : after (.sldc 5 .one) t1 (fun t => t.elem .scalar 5 == 1) = true := by decide +kernel

theorem test_fdec : after (.fdec 0 0 0 1) demo (fun t => t.elem .field 0 == 102 && t.choice 0) = true := by decide +kernel

theorem test_fdec_out_of_range :
    after (.fdec 1 1 1 1) demo (fun t => t.elem .field 1 == 0 && !t.choice 1) = true := by decide +kernel

theorem test_sdec : after (.sdec 0 0 2 1) demo (fun t => t.elem .scalar 0 == 112 && t.choice 0) = true := by
  decide +kernel

theorem test_fenc :
    after (.fenc 2 0x40 1) (f t1 2 77) (fun t => t.buf.read 0x40 == 0x4D && t.resLen == 1) = true := by decide +kernel

theorem test_senc_last :
    after (.senc 3 255 1) demo (fun t => t.buf.read 255 == 112 && t.resLen == 1) = true := by decide +kernel

theorem test_sred :
    after (.sred 1 0 2) { t1 with buf := [(0, 1)] } (fun t => t.elem .scalar 1 == 30) = true := by decide +kernel

theorem test_srednz :
    after (.srednz 1 0 2) { t1 with buf := [(0, 1)] } (fun t => t.elem .scalar 1 == 33) = true := by decide +kernel

theorem test_padd : after (.padd 1 0 0) demo (fun t => t.proj 1 == ⟨19, 90, 42⟩) = true := by decide +kernel

theorem test_padd_inverse :
    after (.padd 2 0 3) { demo with qRegs := demo.qRegs.set 3 ⟨1, 61, 1⟩ } (fun t => t.proj 2 == ⟨0, 90, 0⟩) = true := by
  decide +kernel

theorem test_paddm : after (.paddm 3 0 2) demo (fun t => t.proj 3 == ⟨64, 48, 1⟩) = true := by decide +kernel

theorem test_paddm_identity : after (.paddm 3 0 1) demo (fun t => t.proj 3 == ⟨1, 42, 1⟩) = true := by decide +kernel

theorem test_pdbl : after (.pdbl 0 0) demo (fun t => t.proj 0 == ⟨19, 90, 42⟩) = true := by decide +kernel

theorem test_pneg : after (.pneg 4 0) demo (fun t => t.proj 4 == ⟨1, 61, 1⟩) = true := by decide +kernel

theorem test_pmul : after (.pmul 2 0 1) (sc demo 1 5) (fun t => t.proj 2 == ⟨62, 28, 31⟩) = true := by decide +kernel

theorem test_ptoaff : after (.ptoaff 1 1) demo (fun t => t.affine 1 == ⟨101, 61, false⟩) = true := by decide +kernel

theorem test_ptoaff_identity : after (.ptoaff 0 6) demo (fun t => t.affine 0 == ⟨0, 0, true⟩) = true := by decide +kernel

theorem test_pfroma : after (.pfroma 5 2) demo (fun t => t.proj 5 == ⟨101, 61, 1⟩) = true := by decide +kernel

theorem test_psel : after (.psel 5 0 1 1) demo (fun t => t.proj 5 == ⟨19, 90, 42⟩) = true := by decide +kernel

theorem test_pisid : after (.pisid 0 6) demo (fun t => t.choice 0) = true := by decide +kernel

theorem test_peq :
    after (.peq 2 1 7) { demo with qRegs := demo.qRegs.set 7 ⟨76, 51, 65⟩ } (fun t => t.choice 2) = true := by
  decide +kernel

theorem test_pldi : after (.pldi 0) demo (fun t => t.proj 0 == ⟨0, 1, 0⟩) = true := by decide +kernel

theorem test_aldi : after (.aldi 0) demo (fun t => t.affine 0 == ⟨0, 0, true⟩) = true := by decide +kernel

theorem test_aldg : after (.aldg 4) t1 (fun t => t.affine 4 == ⟨1, 42, false⟩) = true := by decide +kernel

theorem test_aneg : after (.aneg 1 0) demo (fun t => t.affine 1 == ⟨1, 61, false⟩) = true := by decide +kernel

theorem test_aonc : after (.aonc 0 0) demo (fun t => t.choice 0) = true := by decide +kernel

theorem test_aisid : after (.aisid 1 0) demo (fun t => !t.choice 1) = true := by decide +kernel

theorem test_asel : after (.asel 4 0 3 2) demo (fun t => t.affine 4 == ⟨1, 42, false⟩) = true := by decide +kernel

theorem test_aget : after (.aget 7 0 .y) demo (fun t => t.elem .field 7 == 42) = true := by decide +kernel

theorem test_aset :
    after (.aset 5 0 3 4) demo (fun t => t.affine 5 == ⟨101, 61, false⟩ && t.choice 0) = true := by decide +kernel

theorem test_aset_off_curve :
    after (.aset 0 1 3 4) (f demo 4 60) (fun t => t.affine 0 == ⟨0, 0, true⟩ && !t.choice 1) = true := by decide +kernel

theorem test_penc_uncompressed :
    after (.penc 0 0 0x40 .uncompressed) demo
      (fun t => t.buf.readBytes 0x40 3 == [0x04, 0x01, 0x2A] && t.resLen == 3 && t.choice 0) = true := by decide +kernel

theorem test_penc_compact_larger :
    after (.penc 2 1 0x40 .compact) demo
      (fun t => t.buf.readBytes 0x40 2 == [0x05, 0x65] && t.resLen == 2 && !t.choice 1) = true := by decide +kernel

theorem test_pdec_compressed :
    after (.pdec 1 0 4 2) demo (fun t => t.affine 1 == ⟨101, 61, false⟩ && t.choice 0) = true := by decide +kernel

theorem test_pdec_compact :
    after (.pdec 1 0 22 2) demo (fun t => t.affine 1 == ⟨101, 42, false⟩ && t.choice 0) = true := by decide +kernel

theorem test_cfgw :
    after (.cfgw .P 0 1) { State.reset with buf := [(0, 0x67)] } (fun t => t.cfg.p == 103) = true := by decide +kernel

theorem test_cfglock : after .cfglock t1Open (fun t => t.locked && !t.err) = true := by decide +kernel

theorem test_cfglock_other_width :
    after .cfglock { t1Open with cfg := { t1Cfg with r2p := 0x37 } }
      (fun t => !t.locked && t.errCode == .cfgcheck && t.errCmd == 0xF4000000) = true := by decide +kernel

theorem test_kmov : after (.kmov 0 1) demo (fun t => t.choice 0) = true := by decide +kernel

theorem test_knot : after (.knot 1 1) demo (fun t => !t.choice 1) = true := by decide +kernel

theorem test_kand : after (.kand 1 1 2) demo (fun t => !t.choice 1) = true := by decide +kernel

theorem test_kor : after (.kor 0 1 2) demo (fun t => t.choice 0) = true := by decide +kernel

theorem test_kxor : after (.kxor 1 1 1) demo (fun t => !t.choice 1) = true := by decide +kernel

theorem test_kclr : after (.kclr 1) demo (fun t => !t.choice 1) = true := by decide +kernel

theorem test_kset : after (.kset 2) demo (fun t => t.choice 2) = true := by decide +kernel

/-! ### Errors, the window and steps -/

/-- FDEC at 0xFF with LEN = 2 reports BOUNDS, not LEN (V-X). -/
theorem test_bounds_before_len :
    after (.fdec 0 0 0xFF 2) t1 (fun t => t.errCode == .bounds && t.errCmd == 0x400002FF && t.done) = true := by
  decide +kernel

/-- Writing 0xF2D1176B to the first BUF word (R61). -/
theorem test_buffer_lanes :
    (t1.access (t1.writeOf 0x100 0xF2D1176B)).buf.readBytes 0 4 = [0x6B, 0x17, 0xD1, 0xF2] := by decide +kernel

theorem test_first_word_after_reset :
    afterStep (State.reset.withFetchWord 32 0x04000000)
      (fun t => t.errCode == .nocfg && t.errCmd == 0x04000000 && t.inflight == none) = true := by decide +kernel

theorem test_busy_write :
    (running t1 0).access (t1.writeOf 0x010 5) =
      { running t1 0 with err := true, errCode := .busy, errCmd := 5, resp := some .ack } := by decide +kernel

/-- A strong pseudoprime to base 2 is refused, and the moduli of T1 and T2 are prime (95_test_vectors.md). -/
theorem test_isPrime :
    isPrime 2047 = false ∧ isPrime 103 = true ∧ isPrime 113 = true ∧ isPrime 97 = true := by decide +kernel

/-- Trial division decides above the strong test's bound: 7 divides 7·2^89 + 7, and 101 has no divisor. -/
theorem test_noDivisor : noDivisor (7 * 2 ^ 89 + 7) (7 * 2 ^ 89 + 7) 3 = false ∧ noDivisor 101 101 2 = true := by
  decide +kernel

/-- T1, T2, P-256 and secp256k1 are sound; T1 with the prime 97 for N is not (95_test_vectors.md sections 1 and 4). -/
theorem test_configSound :
    configSound t1Cfg = true ∧ configSound { t1Cfg with n := 97 } = false ∧
    configSound { t1Cfg with n := 97, a := 2, b := 11, gx := 1, gy := 23 } = true ∧
    configSound { t1Cfg with
      p := 0xFFFFFFFF00000001000000000000000000000000FFFFFFFFFFFFFFFFFFFFFFFF
      n := 0xFFFFFFFF00000000FFFFFFFFFFFFFFFFBCE6FAADA7179E84F3B9CAC2FC632551
      a := 0xFFFFFFFF00000001000000000000000000000000FFFFFFFFFFFFFFFFFFFFFFFC
      b := 0x5AC635D8AA3A93E7B3EBBD55769886BC651D06B0CC53B0F63BCE3C3E27D2604B } = true ∧
    configSound { t1Cfg with
      p := 2 ^ 256 - 2 ^ 32 - 977
      n := 0xFFFFFFFFFFFFFFFFFFFFFFFFFFFFFFFEBAAEDCE6AF48A03BBFD25E8CD0364141
      a := 0
      b := 7 } = true := by decide +kernel

/-- T1 has 113 points (95_test_vectors.md section 1). -/
theorem test_countPoints : countPoints t1Cfg = 113 := by decide +kernel

/-- Under an unsound configuration an inverse and a root are drawn, also where their own modulus is prime (D10, U3). -/
theorem test_unsound_draws :
    (∃ v b, exec (.finv 2 0 3) unsound = .next
      { unsound with fRegs := unsound.fRegs.set 2 v, kBits := unsound.kBits.set 0 b, draws := 1, done := true }) ∧
    (∃ v b, exec (.ssqrt 2 0 3) unsound = .next
      { unsound with sRegs := unsound.sRegs.set 2 v, kBits := unsound.kBits.set 0 b, draws := 1, done := true }) :=
  ⟨⟨_, _, rfl⟩, ⟨_, _, rfl⟩⟩

/-- PTOAFF of a curve triple gives its curve point under an unsound configuration too (R26). -/
theorem test_ptoaff_unsound :
    after (.ptoaff 1 1) unsound (fun t => t.affine 1 == ⟨101, 61, false⟩ && t.draws == 0) = true := by decide +kernel

/-- A BUSY error stands over a command that then fails (R288). -/
theorem test_first_error_stands :
    exec (.pdec 0 0 20 2) (failing demo) = .next { failing demo with done := true } := rfl

/-- The latency of a CFGW that fails does not look at the bytes it names, which may be secret (R340). -/
theorem test_latency_of_failed_cfgw : publicData demo (.cfgw .P 0 2) = 0 ∧ publicData demo (.pdec 255 2) = 0 := by
  decide +kernel

/-- REDC(60·72) = 98, the representative of 13, for W = 32 (V-M1). -/
theorem test_montgomery : montMul 32 103 0x2CBCE4A9 1 60 72 = 98 := by decide +kernel

/-! ### The invariant and the premises hold of concrete states -/

theorem inv_demo : Inv demo where
  legalCfg := by intro; decide +kernel
  slotWidth := by intro slot; cases slot <;> decide +kernel
  fieldOk := by simp only [ElemOk]; decide +kernel
  scalarOk := by simp only [ElemOk]; decide +kernel
  projOk := by simp only [ProjOk]; decide +kernel
  affineOk := by simp only [AffineOk]; decide +kernel
  errCodeOk := by decide +kernel
  errCmdOk := by decide +kernel
  bufOk := by decide +kernel

theorem inv_composite : Inv composite where
  legalCfg := by intro; decide +kernel
  slotWidth := by intro slot; cases slot <;> decide +kernel
  fieldOk := by simp only [ElemOk]; decide +kernel
  scalarOk := by simp only [ElemOk]; decide +kernel
  projOk := by simp only [ProjOk]; decide +kernel
  affineOk := by simp only [AffineOk]; decide +kernel
  errCodeOk := by decide +kernel
  errCmdOk := by decide +kernel
  bufOk := by decide +kernel

theorem sound_t1 : CfgSound t1Cfg where
  fieldPrime := by show Nat.Prime 103; norm_num
  orderPrime := by show Nat.Prime 113; norm_num
  order := by unfold pointCount; decide +kernel

theorem points_demo : PointsOk demo where
  proj := by simp only [ValidTriple, OnProjCurve]; decide +kernel
  affine := by simp only [OnAffineCurve]; decide +kernel

theorem legal_t1 : cfgChecks State.reset.params t1Cfg = true := by decide +kernel

/-- The generator of T1 as a point of the curve's group. -/
def t1Generator : (curveOf t1Cfg).Point :=
  .some ((1 : Nat) : ZMod t1Cfg.p) ((42 : Nat) : ZMod t1Cfg.p)
    (nonsingular_of_equation legal_t1 sound_t1.fieldPrime ((onCurve_cast t1Cfg 1 42).1 (by decide +kernel)))

theorem denotes_generator : DenotesPoint t1Cfg ⟨1, 42, 1⟩ t1Generator ∧ AffineDenotes t1Cfg ⟨1, 42, false⟩ t1Generator := by
  simp [DenotesPoint, AffineDenotes, t1Generator]

/-- `inv_demo` with a command in flight. -/
theorem inv_running (w : Word) : Inv (running demo w) :=
  ⟨inv_demo.legalCfg, inv_demo.slotWidth, inv_demo.fieldOk, inv_demo.scalarOk, inv_demo.projOk, inv_demo.affineOk,
    inv_demo.errCodeOk, inv_demo.errCmdOk, inv_demo.bufOk⟩

/-! ### Witnesses of the statements' hypotheses -/

theorem witness_DecodeOfEncode : Instr.wf (.pdec 7 3 255 255) = true := by decide

theorem witness_EncodeOfDecode : decode 0xE4322110 = .instr (.pdec 2 3 0x10 33) := by decide +kernel

/-- One word for each clause of ReservedWordsIllegal. -/
theorem witness_ReservedWordsIllegal :
    ((0x3C000000 : Word).extractLsb' 26 6).toNat = 0x0F ∧ ((0xFFFFFFFF : Word).extractLsb' 26 6).toNat = 0x3F ∧
    ((0x00000001 : Word).extractLsb' 26 6).toNat = 0 ∧
    ((0x82000000 : Word).getLsbD 25 = true ∧ ((0x82000000 : Word).extractLsb' 26 6).toNat = 0x20) ∧
    ((0x34000000 : Word).getLsbD 25 = false ∧ ((0x34000000 : Word).extractLsb' 26 6).toNat = 0x0D) ∧
    ((0x05000000 : Word).getLsbD 24 = true ∧ ((0x05000000 : Word).extractLsb' 26 6).toNat = 1) ∧
    (((0xE1800000 : Word).extractLsb' 23 2).toNat = 3 ∧ ((0xE1800000 : Word).extractLsb' 26 6).toNat = 0x38) ∧
    ((0x80080000 : Word).getLsbD 19 = true ∧ ((0x80080000 : Word).extractLsb' 26 6).toNat = 0x20) ∧
    ((0x80008000 : Word).getLsbD 15 = true ∧ ((0x80008000 : Word).extractLsb' 26 6).toNat = 0x20) ∧
    ((0x80000800 : Word).getLsbD 11 = true ∧ ((0x80000800 : Word).extractLsb' 26 6).toNat = 0x20) ∧
    (((0x04000010 : Word).extractLsb' 26 6).toNat = 0x01 ∧ (0x04000010 : Word) &&& 0xF000FF ≠ 0) ∧
    (((0xF8000100 : Word).extractLsb' 26 6).toNat = 0x3E ∧ ((0xF8000100 : Word).extractLsb' 0 4).toNat = 0 ∧
      (0xF8000100 : Word) &&& 0xF00 ≠ 0) ∧
    (((0xF8001006 : Word).extractLsb' 26 6).toNat = 0x3E ∧ ((0xF8001006 : Word).extractLsb' 0 4).toNat = 6 ∧
      (0xF8001006 : Word) &&& 0xFF00 ≠ 0) ∧
    (((0x38000004 : Word).extractLsb' 26 6).toNat = 0x0E ∧ ((0x38000004 : Word).extractLsb' 0 4).toNat = 4) ∧
    (((0x3A000002 : Word).extractLsb' 26 6).toNat = 0x0E ∧ (0x3A000002 : Word).getLsbD 25 = true ∧
      ((0x3A000002 : Word).extractLsb' 0 4).toNat = 2) ∧
    (((0xD8000002 : Word).extractLsb' 26 6).toNat = 0x36 ∧ ((0xD8000002 : Word).extractLsb' 0 4).toNat = 2) ∧
    (((0xF8000007 : Word).extractLsb' 26 6).toNat = 0x3E ∧ ((0xF8000007 : Word).extractLsb' 0 4).toNat = 7) ∧
    (((0xF00C0000 : Word).extractLsb' 26 6).toNat = 0x3C ∧ ((0xF00C0000 : Word).extractLsb' 16 4).toNat = 12) := by
  decide +kernel

theorem witness_StepRunsDecodedInstruction :
    decode 0x04012300 = .instr (.fadd 1 2 3) ∧ decode (BitVec.ofNat 32 0x04012300) = .instr (.fadd 1 2 3) ∧
    (running demo 0x04012300).inflight = some ⟨0x04012300, 0⟩ ∧ (running demo 0x04012300).events = [] ∧
    ({ running demo 0x04012300 with events := [.wait] } : State).events = .wait :: [] ∧
    ({ running demo 0x04012300 with events := [.tick] } : State).events = .tick :: [] := by decide +kernel

theorem witness_StepHandlesOtherEvents :
    (∃ why, decode 0xFFFFFFFF = .illegal why) ∧ (running demo 0xFFFFFFFF).inflight = some ⟨0xFFFFFFFF, 0⟩ ∧
    (running demo 0xFFFFFFFF).err = false ∧ (running demo 0xFFFFFFFF).events = [] ∧
    (running (failing demo) 0xFFFFFFFF).err = true ∧
    ({ running demo 0xFFFFFFFF with events := [.wait] } : State).events = .wait :: [] ∧
    ({ running demo 0xFFFFFFFF with events := [.tick] } : State).events = .tick :: [] ∧ demo.inflight = none ∧
    ({ demo with events := [.hardReset] } : State).events = .hardReset :: [] ∧
    ({ demo with events := [.tick], inflight := some ⟨0, 1⟩ } : State).inflight = some ⟨0, 1⟩ :=
  ⟨⟨.noRow, by decide +kernel⟩, rfl, rfl, rfl, rfl, rfl, rfl, rfl, rfl, rfl⟩

theorem witness_AcceptedCommandCompletes :
    let s : State := { demo with inflight := some ⟨0, 2⟩, events := [.tick, .tick, .tick, .hardReset] }
    s.inflight = some ⟨0, 2⟩ ∧ s.events = List.replicate (2 + 1) .tick ++ [.hardReset] := ⟨rfl, rfl⟩

theorem witness_StepKeepsInvariant : Inv (running demo 0x04012300) ∧ ∃ t, step (running demo 0x04012300) = .next t :=
  ⟨inv_running _, _, rfl⟩

theorem witness_ResetsRestoreState :
    let w : State := running demo 0
    ({ w with events := [.hardReset] } : State).events = .hardReset :: [] ∧ (2 : Word).getLsbD 1 = true ∧
    ({ w with events := [.access (w.writeOf 0x008 2)] } : State).events = .access (w.writeOf 0x008 2) :: [] := by
  decide +kernel

/-- One step for each clause of LockedWriters: CFGLOCK locks, a reset unlocks, and a command leaves LOCKED. -/
theorem witness_LockedWriters :
    (t1Open.locked = false ∧ ∃ t, step (running t1Open 0xF4000000) = .next t ∧ t.locked = true) ∧
    (demo.locked = true ∧ ∃ t, step { demo with events := [.hardReset] } = .next t ∧ t.locked = false) ∧
    (demo.locked = true ∧ ∃ t, step (running demo 0x04012300) = .next t ∧ t.locked = true) :=
  ⟨⟨rfl, _, rfl, by decide +kernel⟩, ⟨rfl, _, rfl, rfl⟩, ⟨rfl, _, rfl, by decide +kernel⟩⟩

theorem witness_StepKeepsPoints :
    Inv (running demo 0x80020100) ∧ CfgSound (running demo 0x80020100).cfg ∧ PointsOk (running demo 0x80020100) ∧
    ∃ t, step (running demo 0x80020100) = .next t :=
  ⟨inv_running _, sound_t1, ⟨points_demo.proj, points_demo.affine⟩, _, rfl⟩

theorem witness_CommandFrame : ∃ t, exec (.aset 5 0 3 4) demo = .next t := ⟨_, rfl⟩

/-- A command that stores and one that does not. -/
theorem witness_BufferFrame :
    (∃ t, exec (.fenc 1 255 1) demo = .next t) ∧ writesBytes demo (.fenc 1 255 1) = some (255, 1) ∧
    (∃ t, exec (.fisz 1 1) demo = .next t) ∧ writesBytes demo (.fisz 1 1) = none := ⟨⟨_, rfl⟩, by decide +kernel, ⟨_, rfl⟩, rfl⟩

theorem witness_EqualBuffersEqualData : Memory.wf [(0, 1), (255, 2)] ∧ Memory.wf demo.buf := by decide +kernel

theorem witness_FailedCheckErrorEffects :
    t1Open.err = false ∧ checks t1Open (shapeOf (.fadd 0 1 2)) = some .nocfg := by decide +kernel

/-- One state and command for each clause of ConfigurationStateErrors, at the first values out of range. -/
theorem witness_ConfigurationStateErrors :
    t1Open.err = false ∧ t1Open.locked = false ∧ shapeOf (.fadd 0 1 2) ≠ .always ∧ demo.err = false ∧ demo.locked = true ∧
    256 < 255 + 2 ∧ (255 + 0 ≤ 256 ∧ 0 < (slotLenRange t1Open.params .P).1) ∧
    (0 + 73 ≤ 256 ∧ (slotLenRange t1Open.params .P).2 < 73) ∧ (slotLenRange t1Open.params .PINV).2 < 9 ∧
    cfgChecks State.reset.params State.reset.cfg = false ∧ cfgChecks t1Open.params t1Open.cfg = true := by decide +kernel

/-- One operand for each clause of BufferCommandErrors, at the boundary of its range. -/
theorem witness_BufferCommandErrors :
    demo.err = false ∧ demo.locked = true ∧ 256 < 255 + 2 ∧ (255 + 0 ≤ 256 ∧ 0 ≠ demo.cfg.eb) ∧
    (0 + 2 ≤ 256 ∧ 2 ≠ demo.cfg.eb) ∧ 2 * demo.cfg.eb < 3 ∧ 256 < 254 + (1 + 2 * demo.cfg.eb) ∧
    256 < 255 + (1 + demo.cfg.eb) ∧ demo.buf.read 20 ∉ [0x00, 0x02, 0x03, 0x04, 0x05] ∧
    (demo.buf.read 255 = 0x00 ∧ 255 + 1 ≤ 256) ∧ (demo.buf.read 6 = 0x04 ∧ 2 ≠ 1 + 2 * demo.cfg.eb) ∧
    (demo.buf.read 4 ∈ [0x02, 0x03, 0x05] ∧ 1 ≠ 1 + demo.cfg.eb) := by decide +kernel

theorem witness_ErrorsByCommand :
    demo.err = false ∧ ∃ t, exec (.pdec 0 0 20 2) demo = .next t ∧ t.err = true :=
  ⟨rfl, _, rfl, by decide +kernel⟩

/-- A command that fails a check and one that passes them, each under a standing error, and a step of each. -/
theorem witness_ErrorOverStandingError :
    (failing demo).err = true ∧ (∃ t, exec (.pdec 0 0 20 2) (failing demo) = .next t) ∧
    checks (failing demo) (shapeOf (.pdec 0 0 20 2)) = some .tag ∧ (∃ t, exec (.fisz 0 0) (failing demo) = .next t) ∧
    checks (failing demo) (shapeOf (.fisz 0 0)) = none ∧
    (∃ t, step (running (failing demo) 0xFFFFFFFF) = .next t ∧ t.err = true) ∧
    (∃ t, step (running (failing demo) 0x04012300) = .next t ∧ t.err = true) :=
  ⟨rfl, ⟨_, rfl⟩, by decide +kernel, ⟨_, rfl⟩, by decide +kernel, ⟨_, rfl, by decide +kernel⟩, ⟨_, rfl, by decide +kernel⟩⟩

theorem witness_CommandAcceptance :
    (failing demo).err = true ∧ ((running demo 0).err = false ∧ (running demo 0).busy = true) ∧
    (demo.err = false ∧ demo.busy = false) := by decide +kernel

theorem witness_BufferWindow :
    63 < 64 ∧ demo.busy = false ∧ demo.buf.wf ∧ (running demo 0).busy = true ∧ (running demo 0).err = false ∧
    (running (failing demo) 0).busy = true ∧ (running (failing demo) 0).err = true := by decide +kernel

/-- An offset for each clause of WindowRegisters, at the ends of the reserved range and of the window. -/
theorem witness_WindowRegisters :
    demo.params.limb = .w64 ∧ (State.resetOf ⟨.w32, 4⟩).params.limb = .w32 ∧ (0x01C ≤ 0x01C ∧ 0x01C % 4 = 0) ∧
    (0x0FC < 0x100 ∧ 0x0FC % 4 = 0) ∧ (0x1FF < 0x200 ∧ 0x1FF % 4 ≠ 0) ∧ 0x1FC < 0x200 ∧ 16 ≠ 32 := by decide

theorem witness_ReturnFromError :
    (4 : Word).getLsbD 2 = true ∧ (4 : Word).getLsbD 1 = false ∧ (failing demo).err = true := by decide +kernel

theorem witness_InterruptAndCtrl :
    (1 : Word).getLsbD 1 = false ∧ ((0 : Word).getLsbD 1 = false ∧ (0 : Word).getLsbD 0 = false) ∧
    ((6 : Word).getLsbD 1 = true ∧ (6 : Word).getLsbD 2 = true) ∧
    ({ demo with ie := true, done := true } : State).irq = true := by decide +kernel

theorem witness_BusyKeepsOperands :
    let s : State := { demo with inflight := some ⟨0, 1⟩, events := [.tick] }
    ∃ t, step s = .next t ∧ s.inflight = some ⟨0, 1⟩ ∧ t.inflight = some ⟨0, 0⟩ := ⟨_, rfl, rfl, rfl⟩

/-- Two states that differ in registers, choice bits, buffer and FLAGS, with a PMUL, a PDEC and a CFGLOCK word; and two open
ones, which differ in bytes that the CFGW word does not name. -/
theorem witness_LatencyIgnoresSecrets :
    SamePublic demo { t1 with cfg := { t1Cfg with flags := 0 } } ∧ decode 0x90010500 = .instr (.pmul 1 0 5) ∧
    decode 0xE4000240 = .instr (.pdec 0 0 0x40 2) ∧ demo.buf.read 0x40 = t1.buf.read 0x40 ∧
    SamePublic demo t1 ∧ demo.cfg = t1.cfg ∧ decode 0xF4000000 = .instr .cfglock ∧
    demo.err = false ∧ t1.err = false ∧ demo.busy = false ∧ t1.busy = false ∧
    SamePublic t1Open { t1Open with buf := [(0, 1)] } ∧ decode 0xF0020140 = .instr (.cfgw .P 0x40 1) ∧
    t1Open.locked = false ∧ t1Open.buf.read 0x40 = Memory.read [(0, 1)] 0x40 :=
  ⟨⟨rfl, rfl, rfl⟩, by decide +kernel, by decide +kernel, by decide +kernel, ⟨rfl, rfl, rfl⟩, rfl, by decide +kernel,
    rfl, rfl, rfl, rfl, ⟨rfl, rfl, rfl⟩, by decide +kernel, rfl, by decide +kernel⟩

/-- A locked core: SumProductResults, ElementMoves, ElementPredicates, AffineChecks, PointPredicates. -/
theorem witness_locked : demo.locked = true := rfl

/-- An invariant and locked core: DifferenceResults, AffineMoves, ProjectiveMoves, AdditionFormulaResults,
DoublingFormulaResults, and with the configuration's A = P - 3 VariantsAgree. -/
theorem witness_inv_locked : Inv demo ∧ demo.locked = true ∧ demo.cfg.a = demo.cfg.p - 3 ∧
    (demo.affine 0).inf = false ∧ (demo.affine 1).inf = true ∧ demo.proj 2 = ⟨0, 1, 0⟩ := ⟨inv_demo, rfl, by decide +kernel⟩

theorem witness_MontgomeryRefinement : Inv demo ∧ demo.locked = true ∧ 102 < demo.cfg.p ∧ 112 < demo.cfg.n :=
  ⟨inv_demo, by decide +kernel⟩

/-- A zero and a nonzero operand in both domains, under a sound configuration; and two legal ones that are not sound. -/
theorem witness_InverseResults :
    Inv demo ∧ demo.locked = true ∧ CfgSound demo.cfg ∧ demo.elem .field 0 = 0 ∧
    demo.elem .field 1 ≠ 0 ∧ demo.elem .scalar 0 = 0 ∧ demo.elem .scalar 1 ≠ 0 ∧
    Inv composite ∧ composite.locked = true ∧ configSound composite.cfg = false ∧ configSound unsound.cfg = false ∧
    cfgChecks unsound.params unsound.cfg = true :=
  ⟨inv_demo, rfl, sound_t1, by decide +kernel, by decide +kernel, by decide +kernel,
    by decide +kernel, inv_composite, rfl, by decide +kernel, by decide +kernel, by decide +kernel⟩

/-- A square and a non-square in both domains: 9 and 5 modulo 103, 4 and 3 modulo 113. -/
theorem witness_SquareRootResults :
    Inv demo ∧ demo.locked = true ∧ CfgSound demo.cfg ∧
    (∃ r, r * r % demo.cfg.p = demo.elem .field 1) ∧ (∀ r, r * r % demo.cfg.p ≠ demo.elem .field 2) ∧
    (∃ r, r * r % demo.cfg.n = demo.elem .scalar 1) ∧ (∀ r, r * r % demo.cfg.n ≠ demo.elem .scalar 2) := by
  refine ⟨inv_demo, rfl, sound_t1, ⟨3, by decide +kernel⟩, fun r => ?_,
    ⟨2, by decide +kernel⟩, fun r => ?_⟩
  · have h : ∀ x < 103, x * x % 103 ≠ 5 := by decide +kernel
    have := h (r % 103) (Nat.mod_lt _ (by decide))
    rwa [← Nat.mul_mod] at this
  · have h : ∀ x < 113, x * x % 113 ≠ 3 := by decide +kernel
    have := h (r % 113) (Nat.mod_lt _ (by decide))
    rwa [← Nat.mul_mod] at this

theorem witness_NegativeFlipsHighAndParity :
    Inv demo ∧ demo.locked = true ∧ demo.elem .scalar 1 ≠ 0 ∧ demo.elem .field 1 ≠ 0 ∧
    (∃ t u v, exec (.sishigh 0 1) demo = .next t ∧ exec (.sneg 5 1) demo = .next u ∧ exec (.sishigh 0 5) u = .next v) ∧
    (∃ t u v, exec (.sisodd 0 1) demo = .next t ∧ exec (.sneg 5 1) demo = .next u ∧ exec (.sisodd 0 5) u = .next v) ∧
    (∃ t u v, exec (.fisodd 0 1) demo = .next t ∧ exec (.fneg 5 1) demo = .next u ∧ exec (.fisodd 0 5) u = .next v) :=
  ⟨inv_demo, rfl, by decide +kernel, by decide +kernel, ⟨_, _, _, rfl, rfl, rfl⟩, ⟨_, _, _, rfl, rfl, rfl⟩,
    ⟨_, _, _, rfl, rfl, rfl⟩⟩

/-- The last value in range and the first out of it, in both domains, and the last offset. -/
theorem witness_DecodeElementResults :
    demo.locked = true ∧ 255 + demo.cfg.eb ≤ 256 ∧ beValue (demo.buf.readBytes 0 demo.cfg.eb) + 1 = demo.cfg.p ∧
    demo.cfg.p = beValue (demo.buf.readBytes 1 demo.cfg.eb) ∧
    beValue (demo.buf.readBytes 2 demo.cfg.eb) + 1 = demo.cfg.n ∧
    demo.cfg.n = beValue (demo.buf.readBytes 3 demo.cfg.eb) := by decide +kernel

theorem witness_EncodeElementResults : Inv demo ∧ demo.locked = true ∧ 255 + demo.cfg.eb ≤ 256 :=
  ⟨inv_demo, by decide +kernel⟩

theorem witness_WideReductionResults :
    Inv demo ∧ demo.locked = true ∧ 254 + 2 ≤ 256 ∧ 1 ≤ 1 ∧ 2 ≤ 2 * demo.cfg.eb := ⟨inv_demo, by decide +kernel⟩

/-- A pair on the curve, and one off it. -/
theorem witness_AffineChecks :
    demo.locked = true ∧
    demo.elem .field 4 ^ 2 % demo.cfg.p =
      (demo.elem .field 3 ^ 3 + demo.cfg.a * demo.elem .field 3 + demo.cfg.b) % demo.cfg.p ∧
    demo.elem .field 3 ^ 2 % demo.cfg.p ≠
      (demo.elem .field 3 ^ 3 + demo.cfg.a * demo.elem .field 3 + demo.cfg.b) % demo.cfg.p := by decide +kernel

/-- Z = 0 and an invertible Z of a curve triple, under a sound configuration and under one that is not, and a Z with no
inverse. -/
theorem witness_ToAffineResults :
    Inv demo ∧ demo.locked = true ∧ (demo.proj 6).z = 0 ∧
    ((demo.proj 1).z ≠ 0 ∧ Nat.gcd (demo.proj 1).z demo.cfg.p = 1 ∧ OnProjCurve demo.cfg (demo.proj 1)) ∧
    ((unsound.proj 1).z ≠ 0 ∧ Nat.gcd (unsound.proj 1).z unsound.cfg.p = 1 ∧ OnProjCurve unsound.cfg (unsound.proj 1)) ∧
    Inv composite ∧ composite.locked = true ∧ (composite.proj 1).z ≠ 0 ∧
    Nat.gcd (composite.proj 1).z composite.cfg.p ≠ 1 :=
  ⟨inv_demo, rfl, by decide +kernel, by simp only [OnProjCurve]; decide +kernel,
    by simp only [OnProjCurve]; decide +kernel, inv_composite, rfl, by decide +kernel, by decide +kernel⟩

/-- Valid operands that denote the generator: PointPredicates, PointsAreDenoted, PaddIsGroupAddition,
PointCommandsAreGroupOperations, PmulIsScalarMultiple. -/
theorem witness_group :
    Inv demo ∧ demo.locked = true ∧ CfgSound demo.cfg ∧ Fact demo.cfg.p.Prime ∧ ValidTriple demo.cfg (demo.proj 0) ∧
    OnAffineCurve demo.cfg (demo.affine 0) ∧ DenotesPoint demo.cfg (demo.proj 0) t1Generator ∧
    AffineDenotes demo.cfg (demo.affine 0) t1Generator ∧ ∃ t, exec (.peq 0 0 0) demo = .next t :=
  ⟨inv_demo, rfl, sound_t1, ⟨sound_t1.fieldPrime⟩, points_demo.proj 0, points_demo.affine 0, denotes_generator.1,
    denotes_generator.2, _, rfl⟩

/-- Room for the longest encoding at the last offset, for a finite point and the identity. -/
theorem witness_PencResults :
    Inv demo ∧ demo.locked = true ∧ 253 + formExtent demo.cfg.eb .uncompressed ≤ 256 ∧
    254 + formExtent demo.cfg.eb .compressed ≤ 256 ∧ 254 + formExtent demo.cfg.eb .compact ≤ 256 ∧
    (demo.affine 0).inf = false ∧ (demo.affine 1).inf = true := ⟨inv_demo, by decide +kernel⟩

/-- An identity byte at the last offset, an uncompressed point, and one whose pair is off the curve. -/
theorem witness_PdecUncompressedResults :
    demo.locked = true ∧ (255 + 1 ≤ 256 ∧ demo.buf.read 255 = 0x00) ∧
    (6 + (1 + 2 * demo.cfg.eb) ≤ 256 ∧ demo.buf.read 6 = 0x04 ∧
      42 ^ 2 % demo.cfg.p = (1 ^ 3 + demo.cfg.a * 1 + demo.cfg.b) % demo.cfg.p ∧
      beValue (demo.buf.readBytes 7 demo.cfg.eb) = 1 ∧ beValue (demo.buf.readBytes 8 demo.cfg.eb) = 42) ∧
    (demo.buf.read 9 = 0x04 ∧ beValue (demo.buf.readBytes 11 demo.cfg.eb) = 43 ∧
      43 ^ 2 % demo.cfg.p ≠ (1 ^ 3 + demo.cfg.a * 1 + demo.cfg.b) % demo.cfg.p) := by decide +kernel

/-- Tags 03, 05 and 02 with a root, x = P, and an x without a root. -/
theorem witness_PdecCompressedResults :
    Inv demo ∧ demo.locked = true ∧ CfgSound demo.cfg ∧ 22 + (1 + demo.cfg.eb) ≤ 256 ∧
    (demo.buf.read 4 = 0x03 ∧ beValue (demo.buf.readBytes 5 demo.cfg.eb) = 101) ∧
    (demo.buf.read 22 = 0x05 ∧ beValue (demo.buf.readBytes 23 demo.cfg.eb) = 101) ∧
    (demo.buf.read 24 = 0x02 ∧ beValue (demo.buf.readBytes 25 demo.cfg.eb) = 1) ∧
    (61 < demo.cfg.p ∧ 61 ^ 2 % demo.cfg.p = (101 ^ 3 + demo.cfg.a * 101 + demo.cfg.b) % demo.cfg.p) ∧
    (demo.buf.read 16 = 0x02 ∧ beValue (demo.buf.readBytes 17 demo.cfg.eb) = demo.cfg.p) ∧
    (demo.buf.read 18 = 0x02 ∧ beValue (demo.buf.readBytes 19 demo.cfg.eb) = 4 ∧
      ∀ y < demo.cfg.p, y ^ 2 % demo.cfg.p ≠ (4 ^ 3 + demo.cfg.a * 4 + demo.cfg.b) % demo.cfg.p) :=
  ⟨inv_demo, rfl, sound_t1, by decide +kernel⟩

/-- A point to encode, and encodings of each tag that decode with K = 1. -/
theorem witness_PointRoundTrip :
    Inv demo ∧ demo.locked = true ∧ CfgSound demo.cfg ∧ OnAffineCurve demo.cfg (demo.affine 2) ∧
    253 + formExtent demo.cfg.eb .uncompressed ≤ 256 ∧ demo.err = false ∧
    (∃ t, exec (.pdec 1 0 4 2) demo = .next t ∧ t.err = false ∧ t.choice 0 = true) ∧
    (∃ t, exec (.pdec 1 0 6 3) demo = .next t ∧ t.err = false ∧ t.choice 0 = true) ∧
    (∃ t, exec (.pdec 1 0 22 2) demo = .next t ∧ t.err = false ∧ t.choice 0 = true) ∧
    (∃ t, exec (.pdec 1 0 200 1) demo = .next t ∧ t.err = false ∧ t.choice 0 = true) :=
  ⟨inv_demo, rfl, sound_t1, points_demo.affine 2, by decide +kernel, rfl, ⟨_, rfl, by decide +kernel⟩,
    ⟨_, rfl, by decide +kernel⟩, ⟨_, rfl, by decide +kernel⟩, ⟨_, rfl, by decide +kernel⟩⟩

/-- The longest and the shortest value of a slot, and a configuration that passes every check of CFGLOCK and one that
fails one. -/
theorem witness_ConfigurationResults :
    t1Open.locked = false ∧ (184 + 72 ≤ 256 ∧ 72 = (slotLenRange t1Open.params .P).2) ∧
    (255 + 1 ≤ 256 ∧ 1 = (slotLenRange t1Open.params .L).1) ∧
    t1Open.cfg = ⟨7, 1, 103, 113, 100, 15, 1, 42, 0x26, 0x6D, 0x254813E22CBCE4A9, 0x6F0243F6F0243F6F⟩ ∧
    (103 % 2 = 1 ∧ 2 ^ (7 - 1) ≤ 103 ∧ 103 < 2 ^ 7) ∧ (4 * 100 ^ 3 + 27 * 15 ^ 2) % 103 ≠ 0 ∧
    42 ^ 2 % 103 = (1 ^ 3 + 100 * 1 + 15) % 103 ∧ 0x26 = (2 ^ (64 * ((7 + 64 - 1) / 64))) ^ 2 % 103 ∧
    0x6D = (2 ^ (64 * ((7 + 64 - 1) / 64))) ^ 2 % 113 ∧ (103 * 0x254813E22CBCE4A9 + 1) % 2 ^ 64 = 0 ∧
    (113 * 0x6F0243F6F0243F6F + 1) % 2 ^ 64 = 0 ∧ ¬(3 ≤ State.reset.cfg.l) ∧ State.reset.err = false := by
  decide +kernel

end Sys2Proof.Tests
end

/-! ### Checks that pass (R283)

One equivalence for each shape of command, so that a proof about a command reads off what its checks gave. -/

namespace Sys2Proof.Machine

theorem ite_some_eq_none {P : Prop} [Decidable P] {c : ErrCode} {x : Option ErrCode} :
    (if P then some c else x) = none ↔ ¬P ∧ x = none := by split_ifs with h <;> simp [h]

theorem ite_none_some_eq_none {P : Prop} [Decidable P] {c : ErrCode} : (if P then none else some c) = none ↔ P := by
  split_ifs with h <;> simp [h]

theorem outside_eq_false {off ext : Nat} : outside off ext = false ↔ off + ext ≤ Config.bufSize := by simp [outside]

theorem checks_register_eq_none {s : State} : checks s .register = none ↔ s.locked = true := by
  simp only [checks, ite_none_some_eq_none]

theorem checks_element_eq_none {s : State} {off len : Nat} :
    checks s (.element off len) = none ↔ s.locked = true ∧ off + len ≤ Config.bufSize ∧ len = s.cfg.eb := by
  simp only [checks, ite_some_eq_none, ite_none_some_eq_none, outside_eq_false, Bool.not_eq_true, Bool.not_eq_false']

theorem checks_wide_eq_none {s : State} {off len : Nat} :
    checks s (.wide off len) = none ↔
      s.locked = true ∧ off + len ≤ Config.bufSize ∧ 1 ≤ len ∧ len ≤ 2 * s.cfg.eb := by
  simp only [checks, ite_some_eq_none, ite_none_some_eq_none, outside_eq_false, Bool.not_eq_true, Bool.not_eq_false']

theorem checks_penc_eq_none {s : State} {off : Nat} {form : Form} :
    checks s (.penc off form) = none ↔ s.locked = true ∧ off + formExtent s.cfg.eb form ≤ Config.bufSize := by
  simp only [checks, ite_some_eq_none, outside_eq_false, Bool.not_eq_true, Bool.not_eq_false', and_true]

theorem tagChecks_eq_none {s : State} {off len : Nat} :
    tagChecks s off len = none ↔ tagLength s.cfg.eb (s.buf.read off) = some len := by
  unfold tagChecks
  split
  · next h => simp [h]
  · next h => rw [ite_none_some_eq_none, h, Option.some_inj, eq_comm]

theorem checks_pdec_eq_none {s : State} {off len : Nat} :
    checks s (.pdec off len) = none ↔
      s.locked = true ∧ off + len ≤ Config.bufSize ∧ len ≠ 0 ∧ tagLength s.cfg.eb (s.buf.read off) = some len := by
  simp only [checks, ite_some_eq_none, outside_eq_false, tagChecks_eq_none, Bool.not_eq_true, Bool.not_eq_false', ne_eq]

theorem checks_cfgw_eq_none {s : State} {slot : Slot} {off len : Nat} :
    checks s (.cfgw slot off len) = none ↔
      s.locked = false ∧ off + len ≤ Config.bufSize ∧
        (slotLenRange s.params slot).1 ≤ len ∧ len ≤ (slotLenRange s.params slot).2 := by
  simp only [checks, ite_some_eq_none, ite_none_some_eq_none, outside_eq_false, Bool.not_eq_true]

theorem checks_cfglock_eq_none {s : State} :
    checks s .cfglock = none ↔ s.locked = false ∧ cfgChecks s.params s.cfg = true := by
  simp only [checks, ite_some_eq_none, ite_none_some_eq_none, Bool.not_eq_true]

/-- A check that fails names one of the errors of R280. -/
theorem checks_ne_some_none (s : State) (sh : Shape) : checks s sh ≠ some .none := by
  cases sh <;> simp only [checks, tagChecks] <;> repeat' split
  all_goals simp

/-! ### What the rules' buffer accesses answer -/

theorem except_bind_eq_ok {α β : Type} {x : Except Fault α} {f : α → Except Fault β} {b : β} :
    x >>= f = .ok b ↔ ∃ a, x = .ok a ∧ f a = .ok b := by
  cases x <;> simp [bind, Except.bind]

theorem memRead_eq_ok {s : State} {off n : Nat} {bytes : List Byte} :
    s.memRead off n = .ok bytes ↔ off + n ≤ Config.bufSize ∧ bytes = s.buf.readBytes off n := by
  unfold State.memRead
  split_ifs with h <;> simp [h, eq_comm]

theorem memWrite_eq_ok {s t : State} {off : Nat} {bytes : List Byte} :
    s.memWrite off bytes = .ok t ↔
      off + bytes.length ≤ Config.bufSize ∧ t = { s with buf := s.buf.writeBytes off bytes } := by
  unfold State.memWrite
  split_ifs with h <;> simp [h, eq_comm]

/-! ### Canonical results (R25, R26, R33)

What the operations on element and point values give lies in the range of a locked configuration. -/

theorem negMod_zero (m : Nat) : negMod m 0 = 0 := by simp [negMod, subMod]

theorem smallerRoot_lt {p β : Nat} (h : β < p) : smallerRoot p β < p := lt_of_le_of_lt (min_le_left _ _) h

section
variable {p : Nat} (hp : 0 < p)
include hp

theorem projOk_identity (h1 : 1 < p) : ProjOk true p Proj.identity := ⟨hp, h1, hp⟩

theorem affineOk_identity : AffineOk true p Affine.identity := ⟨hp, hp, fun _ => ⟨rfl, rfl⟩⟩

theorem projOk_neg {q : Proj} (hq : ProjOk true p q) : ProjOk true p (q.neg p) := by
  obtain ⟨hx, -, hz⟩ := hq
  exact ⟨hx, negMod_lt hp _, hz⟩

theorem affineOk_neg {a : Affine} (ha : AffineOk true p a) : AffineOk true p (a.neg p) := by
  obtain ⟨hx, -, hinf⟩ := ha
  refine ⟨hx, negMod_lt hp _, fun hi => ⟨(hinf hi).1, ?_⟩⟩
  rw [Affine.neg, (hinf hi).2, negMod_zero]

theorem affineOk_maskPoint {ok : Bool} {a : Affine} (ha : ok = true → AffineOk true p a) :
    AffineOk true p (maskPoint ok a) := by
  cases ok with
  | true => exact ha rfl
  | false => exact affineOk_identity hp

theorem projOk_toProj (h1 : 1 < p) {a : Affine} (ha : AffineOk true p a) : ProjOk true p a.toProj := by
  obtain ⟨hx, hy, -⟩ := ha
  unfold Affine.toProj
  split_ifs
  · exact projOk_identity hp h1
  · exact ⟨hx, hy, h1⟩

theorem rootOfParity_lt {β : Nat} (h : β < p) (par : Nat) : rootOfParity p β par < p := by
  unfold rootOfParity
  split_ifs
  · exact h
  · exact negMod_lt hp _

end

section
variable {c : Cfg} (hp : 0 < c.p)
include hp

theorem projOk_pointAdd (q1 q2 : Proj) : ProjOk true c.p (pointAdd c q1 q2) := by
  unfold pointAdd
  split_ifs
  · exact ⟨subMod_lt hp _ _, addMod_lt hp _ _, addMod_lt hp _ _⟩
  · exact ⟨subMod_lt hp _ _, addMod_lt hp _ _, addMod_lt hp _ _⟩

theorem projOk_pointAddMixed (q : Proj) (x y : Nat) : ProjOk true c.p (pointAddMixed c q x y) := by
  unfold pointAddMixed
  split_ifs
  · exact ⟨subMod_lt hp _ _, addMod_lt hp _ _, addMod_lt hp _ _⟩
  · exact ⟨subMod_lt hp _ _, addMod_lt hp _ _, addMod_lt hp _ _⟩

theorem projOk_pointDouble (q : Proj) : ProjOk true c.p (pointDouble c q) := by
  unfold pointDouble
  split_ifs
  · exact ⟨subMod_lt hp _ _, addMod_lt hp _ _, addMod_lt hp _ _⟩
  · exact ⟨subMod_lt hp _ _, addMod_lt hp _ _, addMod_lt hp _ _⟩

theorem projOk_mixedSum {q : Proj} (hq : ProjOk true c.p q) (a : Affine) : ProjOk true c.p (mixedSum c q a) := by
  unfold mixedSum
  cases a.inf with
  | true => exact hq
  | false => exact projOk_pointAddMixed hp _ _ _

theorem projOk_windowLoop (t : List Proj) (k i : Nat) {q : Proj} (hq : ProjOk true c.p q) :
    ProjOk true c.p (windowLoop c t k i q) := by
  induction i generalizing q with
  | zero => exact hq
  | succ i ih => exact ih (projOk_pointAdd hp _ _)

theorem projOk_scalarMul (h1 : 1 < c.p) (nib k : Nat) (base : Proj) : ProjOk true c.p (scalarMul c nib k base) :=
  projOk_windowLoop hp _ _ _ (projOk_identity hp h1)

end

/-! ### Values under the invariant -/

section
variable {s : State} (hi : Inv s) (hl : s.locked = true)
include hi hl

theorem Inv.modulus_ge_five (d : Dom) : 5 ≤ s.modulus d := by
  obtain ⟨hp, hn⟩ := modulus_ge (hi.legalCfg hl)
  cases d with
  | field => exact hp
  | scalar => exact hn

theorem Inv.modulus_pos (d : Dom) : 0 < s.modulus d := lt_of_lt_of_le (by decide) (hi.modulus_ge_five hl d)

theorem Inv.p_pos : 0 < s.cfg.p := hi.modulus_pos hl .field

theorem Inv.one_lt_p : 1 < s.cfg.p := lt_of_lt_of_le (by decide) (hi.modulus_ge_five hl .field)

theorem Inv.elem_lt (d : Dom) (i : EReg) : s.elem d i < s.modulus d := by
  cases d with
  | field => exact (hl ▸ hi.fieldOk i : ElemOk true s.cfg.p _)
  | scalar => exact (hl ▸ hi.scalarOk i : ElemOk true s.cfg.n _)

theorem Inv.proj_ok (i : PReg) : ProjOk true s.cfg.p (s.proj i) := hl ▸ hi.projOk i

theorem Inv.affine_ok (i : PReg) : AffineOk true s.cfg.p (s.affine i) := hl ▸ hi.affineOk i

theorem Inv.fieldConst_lt (c : FConst) : fieldConst s.cfg c < s.cfg.p := by
  obtain ⟨-, -, -, -, ⟨ha, hb, -, -⟩, -⟩ := cfgChecks_spec (hi.legalCfg hl)
  cases c with
  | zero => exact hi.p_pos hl
  | one => exact hi.one_lt_p hl
  | a => exact ha
  | b => exact hb

theorem Inv.scalarConst_lt (c : SConst) : scalarConst c < s.cfg.n := by
  have hn : 5 ≤ s.cfg.n := hi.modulus_ge_five hl .scalar
  cases c <;> simp only [scalarConst] <;> omega

theorem Inv.generator_ok : AffineOk true s.cfg.p ⟨s.cfg.gx, s.cfg.gy, false⟩ := by
  obtain ⟨-, -, -, -, ⟨-, -, hx, hy⟩, -⟩ := cfgChecks_spec (hi.legalCfg hl)
  exact ⟨hx, hy, by simp⟩

theorem Inv.coord_lt (i : PReg) (c : Coord) : (s.affine i).coord c < s.cfg.p := by
  obtain ⟨hx, hy, -⟩ := hi.affine_ok hl i
  cases c with
  | x => exact hx
  | y => exact hy

end

/-- The point lifted from an x has canonical coordinates, also where it is not valid (R243). -/
theorem liftX_ok {s : State} (hp : 0 < s.cfg.p) (x : Nat) {pick : Nat → Nat}
    (hpick : ∀ β < s.cfg.p, pick β < s.cfg.p) : AffineOk true s.cfg.p (s.liftX x pick).1.1 := by
  refine ⟨?_, hpick _ (squareRoot_lt hp _ _), by simp [State.liftX]⟩
  by_cases h : x < s.cfg.p <;> simp [State.liftX, h, hp]

theorem liftX_frame (s : State) (x : Nat) (pick : Nat → Nat) : ∃ n, (s.liftX x pick).2 = { s with draws := n } := by
  obtain ⟨n, hn, -⟩ := exactOrDrawn_frame s s.cfg.p fun _ =>
    sqrtMod s.cfg.p (curveRhs s.cfg.p s.cfg.a s.cfg.b (if decide (x < s.cfg.p) then x else 0))
  exact ⟨n, hn⟩

/-- The point that PDEC reads is canonical where it is valid, and reading it changes nothing but the count of draws
(R242). -/
theorem readPoint_cases {s : State} {off : Nat} {r : (Affine × Bool) × State} (h : s.readPoint off = .ok r) :
    (∃ n, r.2 = { s with draws := n }) ∧ (0 < s.cfg.p → r.1.2 = true → AffineOk true s.cfg.p r.1.1) := by
  have lift (x : Nat) (pick : Nat → Nat) (hpick : 0 < s.cfg.p → ∀ β < s.cfg.p, pick β < s.cfg.p) :
      (∃ n, (s.liftX x pick).2 = { s with draws := n }) ∧
        (0 < s.cfg.p → (s.liftX x pick).1.2 = true → AffineOk true s.cfg.p (s.liftX x pick).1.1) :=
    ⟨liftX_frame s x pick, fun hp _ => liftX_ok hp x (hpick hp)⟩
  simp only [State.readPoint, pure, Except.pure] at h
  split_ifs at h with h0 h4 h5
  · obtain rfl := Except.ok.inj h
    exact ⟨⟨s.draws, rfl⟩, fun hp _ => affineOk_identity hp⟩
  · obtain ⟨xs, -, h⟩ := except_bind_eq_ok.1 h
    obtain ⟨ys, -, h⟩ := except_bind_eq_ok.1 h
    obtain rfl := Except.ok.inj h
    refine ⟨⟨s.draws, rfl⟩, fun _ hok => ?_⟩
    simp only [State.checkedPoint, Bool.and_eq_true, decide_eq_true_eq] at hok
    exact ⟨hok.1.1, hok.1.2, by simp [State.checkedPoint]⟩
  · obtain ⟨xs, -, h⟩ := except_bind_eq_ok.1 h
    obtain rfl := Except.ok.inj h
    exact lift _ _ fun _ β hβ => smallerRoot_lt hβ
  · obtain ⟨xs, -, h⟩ := except_bind_eq_ok.1 h
    obtain rfl := Except.ok.inj h
    exact lift _ _ fun hp β hβ => rootOfParity_lt hp hβ _

end Sys2Proof.Machine

/-! ### What a command can do (R22 to R29, R59, R281)

`Writes i s u` says that u arises from s by writes that the command i is allowed, each of a value that is canonical
where s meets the invariant. `exec_cases` classifies every completion once; frames and invariants are inductions over
`Writes`. -/

namespace Sys2Proof.Machine

/-- The element register of a domain that the command writes, if any. -/
def writesElem : Dom → Instr → Option EReg
  | .field => writesField
  | .scalar => writesScalar

/-- The state u is s with some of the registers, choice bits and bytes written that the command i may write. -/
inductive Writes (i : Instr) (s : State) : State → Prop
  | none : Writes i s s
  | elem {u : State} {d : Dom} {r : EReg} {v : Nat} (hu : Writes i s u) (hw : writesElem d i = some r)
      (hl : s.locked = true) (hv : Inv s → v < s.modulus d) : Writes i s (u.setElem d r v)
  | proj {u : State} {r : PReg} {q : Proj} (hu : Writes i s u) (hw : writesProj i = some r)
      (hl : s.locked = true) (hv : Inv s → ProjOk true s.cfg.p q) : Writes i s (u.setProj r q)
  | affine {u : State} {r : PReg} {a : Affine} (hu : Writes i s u) (hw : writesAffine i = some r)
      (hl : s.locked = true) (hv : Inv s → AffineOk true s.cfg.p a) : Writes i s (u.setAffine r a)
  | choice {u : State} {k : KReg} (b : Bool) (hu : Writes i s u) (hw : writesChoice i = some k) :
      Writes i s (u.setChoice k b)
  | draw {u : State} (n : Nat) (hu : Writes i s u) : Writes i s { u with draws := n }
  | bytes {u : State} {off : Nat} {bytes : List Byte} (hu : Writes i s u)
      (hw : writesBytes s i = some (off, bytes.length)) (hb : off + bytes.length ≤ Config.bufSize) :
      Writes i s { u with buf := u.buf.writeBytes off bytes, resLen := BitVec.ofNat 8 bytes.length }

/-- What the completion of a command can be: the effects of a failed check, the writes of its rule, a configuration slot
written by CFGW, or the lock set by CFGLOCK. -/
inductive Completes (i : Instr) (s : State) : State → Prop
  | fails {c : ErrCode} (hc : checks s (shapeOf i) = some c) : Completes i s (s.raiseError (encode i) c).retire
  | writes {u : State} (hu : Writes i s u) : Completes i s u.complete
  | slot {slot : Slot} {off len : Nat} (hi : i = .cfgw slot off len) (hl : s.locked = false)
      (hlen : len ≤ (slotLenRange s.params slot).2) :
      Completes i s { s with cfg := s.cfg.set slot (beValue (s.buf.readBytes off len)) }.complete
  | lock (hi : i = .cfglock) (hl : s.locked = false) (hc : cfgChecks s.params s.cfg = true) :
      Completes i s { s with locked := true }.complete

section
variable {i : Instr} {s t : State}

/-- A command completes as its rule does where its checks pass. -/
theorem completes_of_command {rule : State → Except Fault State} (h : command i s rule = .next t)
    (hr : ∀ u, checks s (shapeOf i) = none → rule s = .ok u → Completes i s u.complete) : Completes i s t := by
  obtain ⟨c, hc, rfl⟩ | ⟨hc, u, hu, rfl⟩ := command_cases h
  · exact .fails hc
  · exact hr u hc hu

/-- A command of format R whose rule answers a state completes with that rule's writes, under a locked configuration. -/
theorem completes_of_register {rule : State → State} (h : command i s (fun s => .ok (rule s)) = .next t)
    (hs : shapeOf i = .register) (hr : s.locked = true → Writes i s (rule s)) : Completes i s t :=
  completes_of_command h fun u hc hu => by
    rw [hs, checks_register_eq_none] at hc
    obtain rfl := Except.ok.inj hu
    exact .writes (hr hc)

theorem completes_of_elem {d : Dom} {rd : EReg} {f : State → Nat}
    (h : command i s (fun s => .ok (s.setElem d rd (f s))) = .next t) (hs : shapeOf i = .register)
    (hw : writesElem d i = some rd) (hf : Inv s → s.locked = true → f s < s.modulus d) : Completes i s t :=
  completes_of_register h hs fun hl => .elem .none hw hl fun hi => hf hi hl

theorem completes_of_proj {rd : PReg} {f : State → Proj}
    (h : command i s (fun s => .ok (s.setProj rd (f s))) = .next t) (hs : shapeOf i = .register)
    (hw : writesProj i = some rd) (hf : Inv s → s.locked = true → ProjOk true s.cfg.p (f s)) : Completes i s t :=
  completes_of_register h hs fun hl => .proj .none hw hl fun hi => hf hi hl

theorem completes_of_affine {rd : PReg} {f : State → Affine}
    (h : command i s (fun s => .ok (s.setAffine rd (f s))) = .next t) (hs : shapeOf i = .register)
    (hw : writesAffine i = some rd) (hf : Inv s → s.locked = true → AffineOk true s.cfg.p (f s)) : Completes i s t :=
  completes_of_register h hs fun hl => .affine .none hw hl fun hi => hf hi hl

/-- A command that writes one choice bit and nothing else completes so. -/
theorem completes_of_choice {kd : KReg} {test : State → Bool}
    (h : command i s (fun s => .ok (s.setChoice kd (test s))) = .next t) (hw : writesChoice i = some kd) :
    Completes i s t :=
  completes_of_command h fun u _ hu => by
    obtain rfl := Except.ok.inj hu
    exact .writes (.choice _ .none hw)

/-! ### Rules that several commands share -/

theorem writes_invert {d : Dom} {rd ra : EReg} {kd : KReg} (hw : writesElem d i = some rd)
    (hk : writesChoice i = some kd) (hl : s.locked = true) : Writes i s (s.invert d rd kd ra) := by
  obtain ⟨n, hn, -⟩ := exactOrDrawn_frame s (s.modulus d) fun _ => invMod (s.modulus d) (s.elem d ra)
  have hlt := fun hi : Inv s => inverse_lt (hi.modulus_pos hl d) s (s.elem d ra)
  simp only [State.invert, State.inverse, hn] at hlt ⊢
  exact .choice _ (.elem (.draw n .none) hw hl hlt) hk

theorem writes_root {d : Dom} {rd ra : EReg} {kd : KReg} (hw : writesElem d i = some rd)
    (hk : writesChoice i = some kd) (hl : s.locked = true) : Writes i s (s.root d rd kd ra) := by
  obtain ⟨n, hn, -⟩ := exactOrDrawn_frame s (s.modulus d) fun _ => sqrtMod (s.modulus d) (s.elem d ra)
  have hlt := fun hi : Inv s => squareRoot_lt (hi.modulus_pos hl d) s (s.elem d ra)
  simp only [State.root, State.squareRoot, hn] at hlt ⊢
  exact .choice _ (.elem (.draw n .none) hw hl hlt) hk

theorem writes_toAffine {rd : PReg} {q : Proj} (hw : writesAffine i = some rd) (hl : s.locked = true) :
    Writes i s (s.toAffine rd q) := by
  obtain ⟨n, hn⟩ := inverseOfZ_frame s q.z
  simp only [State.toAffine, hn]
  refine .affine (.draw n .none) hw hl fun hi => ?_
  have hp := hi.p_pos hl
  split_ifs
  · exact ⟨mulMod_lt hp _ _, mulMod_lt hp _ _, by simp⟩
  · exact affineOk_identity hp

theorem writes_buildPoint {rd : PReg} {kd : KReg} {x y : Nat} (hw : writesAffine i = some rd)
    (hk : writesChoice i = some kd) (hl : s.locked = true) (hx : Inv s → x < s.cfg.p) (hy : Inv s → y < s.cfg.p) :
    Writes i s (s.buildPoint rd kd x y) :=
  .choice _ (.affine .none hw hl fun hi =>
    affineOk_maskPoint (hi.p_pos hl) fun _ => ⟨hx hi, hy hi, by simp⟩) hk

theorem completes_of_decodeElem {d : Dom} {rg : EReg} {kd : KReg} {off len : Nat}
    (h : command i s (fun s => s.decodeElem d rg kd off) = .next t) (hs : shapeOf i = .element off len)
    (hw : writesElem d i = some rg) (hk : writesChoice i = some kd) : Completes i s t :=
  completes_of_command h fun u hc hu => by
    obtain ⟨hl, -⟩ := checks_element_eq_none.1 (hs ▸ hc)
    obtain ⟨bytes, -, hu⟩ := except_bind_eq_ok.1 hu
    obtain rfl := Except.ok.inj hu
    refine .writes (.choice _ (.elem .none hw hl fun hi => ?_) hk)
    by_cases hv : beValue bytes < s.modulus d
    · simp [hv]
    · simpa [hv] using hi.modulus_pos hl d

theorem completes_of_encodeElem {d : Dom} {rg : EReg} {off : Nat}
    (h : command i s (fun s => s.encodeElem d rg off) = .next t) (hw : writesBytes s i = some (off, s.cfg.eb)) :
    Completes i s t :=
  completes_of_command h fun u _ hu => by
    obtain ⟨v, hv, hu⟩ := except_bind_eq_ok.1 hu
    obtain ⟨hb, rfl⟩ := memWrite_eq_ok.1 hv
    obtain rfl := Except.ok.inj hu
    have hwrites := Writes.bytes .none (by rwa [length_beBytes]) hb
    rw [length_beBytes] at hwrites
    exact .writes hwrites

theorem completes_of_reduction {rg : EReg} {off len : Nat} {f : State → Nat → Nat}
    (h : command i s (fun s => do return s.setElem .scalar rg (f s (beValue (← s.memRead off len)))) = .next t)
    (hs : shapeOf i = .wide off len) (hw : writesScalar i = some rg)
    (hf : ∀ v, Inv s → s.locked = true → f s v < s.cfg.n) : Completes i s t :=
  completes_of_command h fun u hc hu => by
    obtain ⟨hl, -⟩ := checks_wide_eq_none.1 (hs ▸ hc)
    obtain ⟨bytes, -, hu⟩ := except_bind_eq_ok.1 hu
    obtain rfl := Except.ok.inj hu
    exact .writes (.elem (d := .scalar) .none hw hl fun hi => hf _ hi hl)

theorem completes_of_encodePoint {rg : PReg} {kd : KReg} {off : Nat} {form : Form}
    (h : command i s (fun s => s.encodePoint rg kd off form) = .next t) (hk : writesChoice i = some kd)
    (hw : writesBytes s i = some (off, (pointBytes s.cfg.eb form (s.affine rg)).length)) : Completes i s t :=
  completes_of_command h fun u _ hu => by
    obtain ⟨v, hv, hu⟩ := except_bind_eq_ok.1 hu
    obtain ⟨hb, rfl⟩ := memWrite_eq_ok.1 hv
    obtain rfl := Except.ok.inj hu
    exact .writes (.choice _ (.bytes .none hw hb) hk)

theorem completes_of_decodePoint {rg : PReg} {kd : KReg} {off len : Nat}
    (h : command i s (fun s => s.decodePoint rg kd off) = .next t) (hs : shapeOf i = .pdec off len)
    (hw : writesAffine i = some rg) (hk : writesChoice i = some kd) : Completes i s t :=
  completes_of_command h fun u hc hu => by
    obtain ⟨hl, -⟩ := checks_pdec_eq_none.1 (hs ▸ hc)
    obtain ⟨⟨⟨pt, ok⟩, v⟩, hv, hu⟩ := except_bind_eq_ok.1 hu
    obtain rfl := Except.ok.inj hu
    obtain ⟨⟨n, rfl⟩, hok⟩ := readPoint_cases hv
    exact .writes (.choice _ (.affine (.draw n .none) hw hl fun hi =>
      affineOk_maskPoint (hi.p_pos hl) (hok (hi.p_pos hl))) hk)

end

/-! ### All commands -/

/-- What a command that answers a next state did. -/
theorem exec_cases {i : Instr} {s t : State} (h : exec i s = .next t) : Completes i s t := by
  unfold exec at h
  cases i with
  | nop => exact completes_of_command h fun u _ hu => by obtain rfl := Except.ok.inj hu; exact .writes .none
  -- element commands (40_field_scalar.md)
  | fadd | sadd => exact completes_of_elem h rfl rfl fun hi hl => addMod_lt (hi.modulus_pos hl _) _ _
  | fsub | ssub => exact completes_of_elem h rfl rfl fun hi hl => subMod_lt (hi.modulus_pos hl _) _ _
  | fneg | sneg => exact completes_of_elem h rfl rfl fun hi hl => negMod_lt (hi.modulus_pos hl _) _
  | fmul | smul | fsqr | ssqr => exact completes_of_elem h rfl rfl fun hi hl => mulMod_lt (hi.modulus_pos hl _) _ _
  | finv | sinv => exact completes_of_register h rfl fun hl => writes_invert rfl rfl hl
  | fsqrt | ssqrt => exact completes_of_register h rfl fun hl => writes_root rfl rfl hl
  | fnorm | snorm => exact completes_of_elem h rfl rfl fun hi hl => hi.elem_lt hl _ _
  | fsel | ssel => exact completes_of_elem h rfl rfl fun hi hl => by split_ifs <;> exact hi.elem_lt hl _ _
  | fldc => exact completes_of_elem h rfl rfl fun hi hl => hi.fieldConst_lt hl _
  | sldc => exact completes_of_elem h rfl rfl fun hi hl => hi.scalarConst_lt hl _
  | fdec | sdec => exact completes_of_decodeElem h rfl rfl rfl
  | fenc | senc => exact completes_of_encodeElem h rfl
  | sred =>
    exact completes_of_reduction (f := fun s v => v % s.cfg.n) h rfl rfl fun v hi hl =>
      Nat.mod_lt _ (hi.modulus_pos hl .scalar)
  | srednz =>
    refine completes_of_reduction (f := fun s v => v % (s.cfg.n - 1) + 1) h rfl rfl fun v hi hl => ?_
    have hn : 5 ≤ s.cfg.n := hi.modulus_ge_five hl .scalar
    have := Nat.mod_lt v (show 0 < s.cfg.n - 1 by omega)
    omega
  -- projective commands (42_projective.md)
  | padd => exact completes_of_proj h rfl rfl fun hi hl => projOk_pointAdd (hi.p_pos hl) _ _
  | paddm => exact completes_of_proj h rfl rfl fun hi hl => projOk_mixedSum (hi.p_pos hl) (hi.proj_ok hl _) _
  | pdbl => exact completes_of_proj h rfl rfl fun hi hl => projOk_pointDouble (hi.p_pos hl) _
  | pneg => exact completes_of_proj h rfl rfl fun hi hl => projOk_neg (hi.p_pos hl) (hi.proj_ok hl _)
  | pmul => exact completes_of_proj h rfl rfl fun hi hl => projOk_scalarMul (hi.p_pos hl) (hi.one_lt_p hl) _ _ _
  | ptoaff => exact completes_of_register h rfl fun hl => writes_toAffine rfl hl
  | pfroma =>
    exact completes_of_proj h rfl rfl fun hi hl => projOk_toProj (hi.p_pos hl) (hi.one_lt_p hl) (hi.affine_ok hl _)
  | psel => exact completes_of_proj h rfl rfl fun hi hl => by split_ifs <;> exact hi.proj_ok hl _
  | pldi => exact completes_of_proj h rfl rfl fun hi hl => projOk_identity (hi.p_pos hl) (hi.one_lt_p hl)
  -- affine commands (41_affine.md)
  | aldi => exact completes_of_affine h rfl rfl fun hi hl => affineOk_identity (hi.p_pos hl)
  | aldg => exact completes_of_affine h rfl rfl fun hi hl => hi.generator_ok hl
  | aneg => exact completes_of_affine h rfl rfl fun hi hl => affineOk_neg (hi.p_pos hl) (hi.affine_ok hl _)
  | asel => exact completes_of_affine h rfl rfl fun hi hl => by split_ifs <;> exact hi.affine_ok hl _
  | aget => exact completes_of_elem h rfl rfl fun hi hl => hi.coord_lt hl _ _
  | aset =>
    exact completes_of_register h rfl fun hl =>
      writes_buildPoint rfl rfl hl (fun hi => hi.elem_lt hl .field _) fun hi => hi.elem_lt hl .field _
  -- SEC1 codec (43_codec.md)
  | penc => exact completes_of_encodePoint h rfl rfl
  | pdec => exact completes_of_decodePoint h rfl rfl rfl
  -- configuration (44_control.md)
  | cfgw slot off len =>
    refine completes_of_command h fun u hc hu => ?_
    obtain ⟨hl, -, -, hlen⟩ := checks_cfgw_eq_none.1 hc
    obtain ⟨bytes, hb, hu⟩ := except_bind_eq_ok.1 hu
    obtain ⟨-, rfl⟩ := memRead_eq_ok.1 hb
    obtain rfl := Except.ok.inj hu
    exact .slot rfl hl hlen
  | cfglock =>
    refine completes_of_command h fun u hc hu => ?_
    obtain ⟨hl, hok⟩ := checks_cfglock_eq_none.1 hc
    obtain rfl := Except.ok.inj hu
    exact .lock rfl hl hok
  -- the commands that write one choice bit
  | fisz | sisz | fisodd | sisodd | feq | seq | sishigh | pisid | peq | aonc | aisid | kmov | knot | kand | kor | kxor
  | kclr | kset => exact completes_of_choice h rfl

end Sys2Proof.Machine

/-! ### What a command leaves unchanged -/

namespace Sys2Proof.Machine

section
variable {i : Instr} {s t u : State}

/-- The fields that no rule but CFGW's and CFGLOCK's writes. -/
theorem Writes.frame (h : Writes i s u) :
    u.cfg = s.cfg ∧ u.locked = s.locked ∧ u.params = s.params ∧ u.ie = s.ie ∧ u.events = s.events ∧
      u.resp = s.resp := by
  induction h with
  | none => exact ⟨rfl, rfl, rfl, rfl, rfl, rfl⟩
  | elem _ _ _ _ ih => simpa using ih
  | proj _ _ _ _ ih | affine _ _ _ _ ih | choice _ _ _ ih | draw _ _ ih | bytes _ _ _ ih => exact ih

theorem elem_setElem_ne (s : State) {d d' : Dom} (hd : d' ≠ d) (i j : EReg) (v : Nat) :
    (s.setElem d' i v).elem d j = s.elem d j := by
  cases d with
  | field =>
    cases d' with
    | field => exact absurd rfl hd
    | scalar => rfl
  | scalar =>
    cases d' with
    | field => rfl
    | scalar => exact absurd rfl hd

theorem Writes.elem_eq (h : Writes i s u) (d : Dom) {j : EReg} (hj : writesElem d i ≠ some j) :
    u.elem d j = s.elem d j := by
  induction h with
  | none => rfl
  | @elem u d' r v _ hw _ _ ih =>
    rw [← ih]
    by_cases hd : d' = d
    · subst hd
      rw [elem_setElem, if_neg (by rintro rfl; exact hj hw)]
    · exact elem_setElem_ne u hd r j v
  | proj _ _ _ _ ih | affine _ _ _ _ ih | choice _ _ _ ih | draw _ _ ih | bytes _ _ _ ih => exact ih

theorem Writes.proj_eq (h : Writes i s u) {j : PReg} (hj : writesProj i ≠ some j) : u.proj j = s.proj j := by
  induction h with
  | none => rfl
  | proj _ hw _ _ ih => rw [proj_setProj, if_neg (by rintro rfl; exact hj hw), ih]
  | @elem u d _ _ _ _ _ _ ih => cases d <;> exact ih
  | affine _ _ _ _ ih | choice _ _ _ ih | draw _ _ ih | bytes _ _ _ ih => exact ih

theorem Writes.affine_eq (h : Writes i s u) {j : PReg} (hj : writesAffine i ≠ some j) : u.affine j = s.affine j := by
  induction h with
  | none => rfl
  | affine _ hw _ _ ih => rw [affine_setAffine, if_neg (by rintro rfl; exact hj hw), ih]
  | @elem u d _ _ _ _ _ _ ih => cases d <;> exact ih
  | proj _ _ _ _ ih | choice _ _ _ ih | draw _ _ ih | bytes _ _ _ ih => exact ih

theorem Writes.choice_eq (h : Writes i s u) {j : KReg} (hj : writesChoice i ≠ some j) : u.choice j = s.choice j := by
  induction h with
  | none => rfl
  | choice _ _ hw ih => rw [choice_setChoice, if_neg (by rintro rfl; exact hj hw), ih]
  | @elem u d _ _ _ _ _ _ ih => cases d <;> exact ih
  | proj _ _ _ _ ih | affine _ _ _ _ ih | draw _ _ ih | bytes _ _ _ ih => exact ih

theorem Writes.resLen_eq (h : Writes i s u) (hb : writesBytes s i = .none) : u.resLen = s.resLen := by
  induction h with
  | none => rfl
  | bytes _ hw _ _ => rw [hb] at hw; cases hw
  | elem _ _ _ _ ih => simpa using ih
  | proj _ _ _ _ ih | affine _ _ _ _ ih | choice _ _ _ ih | draw _ _ ih => exact ih

end

theorem get_set (c : Cfg) (slot slot' : Slot) (v : Nat) :
    (c.set slot v).get slot' = if slot = slot' then v else c.get slot' := by
  cases slot <;> cases slot' <;> rfl

/-! ### What keeps the invariant (R33)

One rule for each update of the state. -/

section
variable {s : State} (h : Inv s)
include h

/-- The invariant does not speak of the choice bits, IE, DONE, RESLEN, the command in flight, the events, the answer or
the draws. -/
theorem Inv.unprotected (kBits : Vector Bool 4) (ie done : Bool) (resLen : Byte) (inflight : Option InFlight)
    (events : List Event) (resp : Option BusResponse) (draws : Nat) :
    Inv { s with kBits := kBits, ie := ie, done := done, resLen := resLen, inflight := inflight, events := events,
                 resp := resp, draws := draws } :=
  { h with }

theorem Inv.setElem (hl : s.locked = true) {d : Dom} {r : EReg} {v : Nat} (hv : v < s.modulus d) :
    Inv (s.setElem d r v) := by
  have hok : ∀ j, ElemOk s.locked (s.modulus d) ((s.setElem d r v).elem d j) := fun j => by
    rw [elem_setElem]
    split_ifs
    · rw [hl]; exact hv
    · rw [hl]; exact h.elem_lt hl d j
  cases d with
  | field => exact { h with fieldOk := hok }
  | scalar => exact { h with scalarOk := hok }

theorem Inv.setProj (hl : s.locked = true) {r : PReg} {q : Proj} (hq : ProjOk true s.cfg.p q) : Inv (s.setProj r q) :=
  { h with
    projOk := fun j => by
      rw [proj_setProj]
      split_ifs
      · exact hl ▸ hq
      · exact h.projOk j }

theorem Inv.setAffine (hl : s.locked = true) {r : PReg} {a : Affine} (ha : AffineOk true s.cfg.p a) :
    Inv (s.setAffine r a) :=
  { h with
    affineOk := fun j => by
      rw [affine_setAffine]
      split_ifs
      · exact hl ▸ ha
      · exact h.affineOk j }

theorem Inv.writeBytes {off : Nat} {bytes : List Byte} (hb : off + bytes.length ≤ Config.bufSize) :
    Inv { s with buf := s.buf.writeBytes off bytes } :=
  { h with bufOk := memory_wf_writeBytes h.bufOk off bytes hb }

/-- Before the lock every register holds its reset value (R33). -/
theorem Inv.reset_values (hl : s.locked = false) :
    (∀ j, s.elem .field j = 0) ∧ (∀ j, s.elem .scalar j = 0) ∧ (∀ j, s.proj j = Proj.identity) ∧
      ∀ j, s.affine j = Affine.identity := by
  obtain ⟨-, -, hf, hs, hq, ha, -⟩ := h
  rw [hl] at hf hs hq ha
  exact ⟨hf, hs, hq, ha⟩

/-- Any value of a slot's width may be written before the lock, whatever the moduli then are. -/
theorem Inv.setSlot (hl : s.locked = false) (slot : Slot) {v : Nat} (hv : v < 2 ^ (8 * Config.lMaxB)) :
    Inv { s with cfg := s.cfg.set slot v } := by
  obtain ⟨hf, hs, hq, ha⟩ := h.reset_values hl
  exact
    { h with
      legalCfg := fun h1 => by simp [hl] at h1
      slotWidth := fun slot' => by
        rw [get_set]
        split_ifs
        · exact hv
        · exact h.slotWidth slot'
      fieldOk := fun j => by rw [hl]; exact hf j
      scalarOk := fun j => by rw [hl]; exact hs j
      projOk := fun j => by rw [hl]; exact hq j
      affineOk := fun j => by rw [hl]; exact ha j }

/-- The reset values are canonical under every legal configuration. -/
theorem Inv.lock (hl : s.locked = false) (hc : cfgChecks s.params s.cfg = true) : Inv { s with locked := true } := by
  obtain ⟨hf, hs, hq, ha⟩ := h.reset_values hl
  obtain ⟨hp, hn⟩ := modulus_ge hc
  have hp0 : 0 < s.cfg.p := lt_of_lt_of_le (by decide) hp
  exact
    { h with
      legalCfg := fun _ => hc
      fieldOk := fun j => (hf j).trans_lt hp0
      scalarOk := fun j => (hs j).trans_lt (lt_of_lt_of_le (by decide) hn)
      projOk := fun j => (hq j).symm ▸ projOk_identity hp0 (lt_of_lt_of_le (by decide) hp)
      affineOk := fun j => (ha j).symm ▸ affineOk_identity hp0 }

theorem Inv.raiseBusy (w : Word) : Inv (s.raiseBusy w) :=
  { h with errCodeOk := by simp, errCmdOk := by simp }

theorem Inv.clearError : Inv s.clearError :=
  { h with errCodeOk := by simp, errCmdOk := by simp }

theorem Inv.raiseError {c : ErrCode} (hc : c ≠ .none) (w : Word) : Inv (s.raiseError w c) := by
  cases he : s.err with
  | true =>
    rw [raiseError_of_standing he]
    exact h.unprotected ..
  | false =>
    rw [raiseError_of_clear he]
    exact { h with errCodeOk := by simpa [State.errorEffects] using hc, errCmdOk := by simp [State.errorEffects] }

end

end Sys2Proof.Machine

/-! ### What a host access can do (R52 to R62) -/

namespace Sys2Proof.Machine

/-- What a host write of v at an offset of the window can do: reset the core, write CTRL, STATUS.DONE or the command in
flight, clear the error, raise BUSY, or write four bytes of the buffer. -/
inductive HostWrites (s : State) (off : Nat) (v : Word) : State → Prop
  | reset (ho : off = 0x008) (hv : v.getLsbD 1 = true) : HostWrites s off v s.resetCore
  | control (ie done : Bool) (f : Option InFlight) : HostWrites s off v { s with ie := ie, done := done, inflight := f }
  | clear (done : Bool) : HostWrites s off v (State.clearError { s with done := done })
  | busy (w : Word) : HostWrites s off v (s.raiseBusy w)
  | bytes (ho : 0x100 ≤ off) : HostWrites s off v { s with buf := s.buf.writeBytes (off - 0x100) (laneBytes v) }

theorem HostWrites.unchanged (s : State) (off : Nat) (v : Word) : HostWrites s off v s :=
  .control s.ie s.done s.inflight

theorem writeStatus_cases (s : State) (off : Nat) (v : Word) : HostWrites s off v (s.writeStatus v) := by
  have ht : (if v.getLsbD 1 then { s with done := false } else s) =
      { s with done := if v.getLsbD 1 then false else s.done } := by split_ifs <;> rfl
  simp only [State.writeStatus, ht]
  split_ifs
  · exact .clear _
  · exact .clear _
  · exact .control s.ie _ s.inflight
  · exact .control s.ie _ s.inflight

theorem submit_cases (s : State) (off : Nat) (v : Word) : HostWrites s off v (s.submit v) := by
  unfold State.submit
  split_ifs
  · exact .unchanged s off v
  · exact .busy v
  · exact .control s.ie s.done _

theorem writeWindow_cases (s : State) (off : Nat) (v : Word) : HostWrites s off v (s.writeWindow off v) := by
  unfold State.writeWindow
  split_ifs with h8 hC h10 h100
  · unfold State.writeCtrl
    split_ifs with hv
    · exact .reset h8 hv
    · exact .control _ s.done s.inflight
  · exact writeStatus_cases s off v
  · exact submit_cases s off v
  · unfold State.writeBuffer
    split_ifs
    · exact .unchanged s off v
    · exact .busy 0
    · exact .bytes h100
  · exact .unchanged s off v

theorem exists_offset_of_inWindow {s : State} {addr : Nat} (h : s.inWindow addr = true) :
    ∃ off < Config.windowSize, addr = s.params.base + off := by
  simp only [State.inWindow, Bool.and_eq_true, decide_eq_true_eq] at h
  exact ⟨addr - s.params.base, by omega, by omega⟩

theorem aligned_of_decoded {a : BusAccess} (h : a.decoded = true) : a.addr % 4 = 0 := by
  simp only [BusAccess.decoded, Bool.and_eq_true, beq_iff_eq] at h
  exact h.2

/-- A host access writes at an aligned offset of the window, or changes nothing but the answer and the count of draws
(R52, R64). -/
theorem access_cases (s : State) (a : BusAccess) :
    (∃ n r, s.access a = { s with draws := n, resp := r }) ∨
    (∃ off v, a.kind = .write v ∧ a.addr = s.params.base + off ∧ off < Config.windowSize ∧ off % 4 = 0 ∧
      s.access a = { s.writeWindow off v with resp := some .ack }) := by
  have read : ∀ off, ∃ n r, s.answerRead off = { s with draws := n, resp := r } := fun off => by
    obtain ⟨n, hn⟩ := readWindow_frame s off
    exact ⟨n, some (.data (s.readWindow off).1), by simp only [State.answerRead, hn]⟩
  unfold State.access
  split_ifs with hw hd
  · exact .inl ⟨s.draws, none, rfl⟩
  · exact .inl ⟨s.draws, some .busError, rfl⟩
  · cases hk : a.kind with
    | read => exact .inl (read _)
    | fetch => exact .inl (read _)
    | write v =>
      rw [Bool.not_eq_true, Bool.not_eq_false'] at hw hd
      obtain ⟨off, hlt, ho⟩ := exists_offset_of_inWindow hw
      have ha := aligned_of_decoded hd
      rw [ho, aligned_offset] at ha
      exact .inr ⟨off, v, rfl, ho, hlt, ha, by rw [ho, Nat.add_sub_cancel_left]⟩

/-- The completion of a word: that of the command it decodes to, or the ILLEGAL error (R86, R281). -/
theorem runWord_cases {w : Word} {s t : State} (h : runWord w s = .next t) :
    (∃ i, decode w = .instr i ∧ Completes i s t) ∨ t = (s.raiseError w .illegal).retire := by
  unfold runWord at h
  split at h
  · next i hd => exact .inl ⟨i, hd, exec_cases h⟩
  · exact .inr (by simpa [eq_comm] using h)

/-! ### The invariant (R33) -/

theorem slotLenRange_le (p : Params) (slot : Slot) : (slotLenRange p slot).2 ≤ Config.lMaxB := by
  have hw : p.limb.bits / 8 ≤ Config.lMaxB := by cases p.limb <;> decide
  cases slot with
  | L => exact show 2 ≤ 72 by decide
  | FLAGS => exact show 1 ≤ 72 by decide
  | PINV | NINV => exact hw
  | _ => exact le_rfl

theorem Writes.inv {i : Instr} {s u : State} (hu : Writes i s u) (hi : Inv s) : Inv u := by
  induction hu with
  | none => exact hi
  | elem hu _ hl hv ih =>
    obtain ⟨hc, hl', -⟩ := hu.frame
    exact ih.setElem (hl'.trans hl) (by rw [State.modulus, hc]; exact hv hi)
  | proj hu _ hl hv ih =>
    obtain ⟨hc, hl', -⟩ := hu.frame
    exact ih.setProj (hl'.trans hl) (hc ▸ hv hi)
  | affine hu _ hl hv ih =>
    obtain ⟨hc, hl', -⟩ := hu.frame
    exact ih.setAffine (hl'.trans hl) (hc ▸ hv hi)
  | choice _ _ _ ih => exact ih.unprotected ..
  | draw _ _ ih => exact ih.unprotected ..
  | bytes _ _ hb ih => exact (ih.writeBytes hb).unprotected ..

theorem Completes.inv {i : Instr} {s t : State} (h : Completes i s t) (hi : Inv s) : Inv t := by
  cases h with
  | fails hc => exact (hi.raiseError (fun h0 => checks_ne_some_none s _ (h0 ▸ hc)) _).unprotected ..
  | writes hu => exact (hu.inv hi).unprotected ..
  | lock _ hl hc => exact (hi.lock hl hc).unprotected ..
  | @slot slot off len _ hl hlen =>
    have hv := calc
      beValue (s.buf.readBytes off len) < 256 ^ (s.buf.readBytes off len).length := beValue_lt _
      _ = 256 ^ len := by rw [length_readBytes]
      _ ≤ 256 ^ Config.lMaxB := Nat.pow_le_pow_right (by decide) (hlen.trans (slotLenRange_le _ _))
      _ = 2 ^ (8 * Config.lMaxB) := by rw [pow_mul]; rfl
    exact (hi.setSlot hl slot hv).unprotected ..

theorem inv_resetOf (p : Params) : Inv (State.resetOf p) where
  legalCfg h := by simp [State.resetOf] at h
  slotWidth slot := by cases slot <;> simp [State.resetOf, Cfg.zero, Cfg.get]
  fieldOk i := by simp [State.resetOf, ElemOk, State.elem]
  scalarOk i := by simp [State.resetOf, ElemOk, State.elem]
  projOk i := by simp [State.resetOf, ProjOk, State.proj]
  affineOk i := by simp [State.resetOf, AffineOk, State.affine]
  errCodeOk := by simp [State.resetOf]
  errCmdOk _ := rfl
  bufOk := reset_memory_wf p

theorem inv_resetCore (s : State) : Inv s.resetCore := (inv_resetOf s.params).unprotected ..

theorem HostWrites.inv {s t : State} {off : Nat} {v : Word} (h : HostWrites s off v t) (hi : Inv s)
    (ho : off < Config.windowSize) (ha : off % 4 = 0) : Inv t := by
  cases h with
  | reset => exact inv_resetCore s
  | control => exact hi.unprotected ..
  | clear done => exact (hi.unprotected s.kBits s.ie done s.resLen s.inflight s.events s.resp s.draws).clearError
  | busy => exact hi.raiseBusy _
  | bytes h100 =>
    refine hi.writeBytes ?_
    simp only [laneBytes, List.length_cons, List.length_nil, Config.windowSize, Config.bufSize] at ho ⊢
    omega

theorem inv_access {s : State} (hi : Inv s) (a : BusAccess) : Inv (s.access a) := by
  obtain ⟨n, r, h⟩ | ⟨off, v, -, -, ho, ha, h⟩ := access_cases s a
  · rw [h]; exact hi.unprotected ..
  · rw [h]; exact ((writeWindow_cases s off v).inv hi ho ha).unprotected ..

theorem Inv.setEvents {s : State} (hi : Inv s) (rest : List Event) : Inv { s with events := rest } := hi.unprotected ..

/-- Settles O10: a step completes a command, handles a host access, resets the core or lets time pass, and each keeps
the invariant. -/
theorem stepKeepsInvariant : Obligations.StepKeepsInvariant := by
  intro s t hi h
  obtain ⟨c, -, h⟩ | ⟨a, rest, -, rfl⟩ | ⟨rest, -, rfl⟩ | ⟨f, -, rfl⟩ := step_cases h
  · have hi' := hi.setEvents s.events.tail
    obtain ⟨i, -, hc⟩ | rfl := runWord_cases h
    · exact hc.inv hi'
    · exact (hi'.raiseError (by decide) _).unprotected ..
  · exact inv_access (hi.setEvents rest) a
  · exact inv_resetCore _
  · exact hi.unprotected ..

/-- Settles O11. -/
theorem resetMeetsInvariant : Obligations.ResetMeetsInvariant := ⟨inv_resetOf _, inv_resetOf⟩

/-- Settles O12: R34's table, row by row. -/
theorem resetValues : Obligations.ResetValues := by
  intro p s
  have hslot : ∀ slot, s.cfg.get slot = 0 := fun slot => by cases slot <;> rfl
  refine ⟨fun i => ?_, fun i => ?_, fun i => ?_, fun i => ?_, fun i => ?_, hslot, rfl, fun _ => rfl, rfl, rfl, rfl, rfl,
    rfl, rfl, rfl, rfl, rfl⟩
  all_goals exact Vector.getElem_replicate _

end Sys2Proof.Machine

/-! ### The frame of a command (R22 to R29) -/

namespace Sys2Proof.Machine

/-- What a completion leaves unchanged outside BUF, whatever way the command completes. -/
theorem Completes.frame {i : Instr} {s t : State} (h : Completes i s t) :
    (∀ d j, writesElem d i ≠ some j → t.elem d j = s.elem d j) ∧
    (∀ j, writesProj i ≠ some j → t.proj j = s.proj j) ∧
    (∀ j, writesAffine i ≠ some j → t.affine j = s.affine j) ∧
    (∀ j, writesChoice i ≠ some j → t.choice j = s.choice j) ∧
    (∀ slot, (∀ off len, i ≠ .cfgw slot off len) → t.cfg.get slot = s.cfg.get slot) ∧
    (i ≠ .cfglock → t.locked = s.locked) ∧
    (writesBytes s i = none → t.resLen = s.resLen) ∧
    t.ie = s.ie ∧ t.params = s.params ∧ t.events = s.events ∧ t.resp = s.resp ∧ t.done = true ∧
    t.inflight = none := by
  cases h with
  | @fails c =>
    rw [raiseError_frame]
    exact ⟨fun d _ _ => by cases d <;> rfl, fun _ _ => rfl, fun _ _ => rfl, fun _ _ => rfl, fun _ _ => rfl,
      fun _ => rfl, fun _ => rfl, rfl, rfl, rfl, rfl, rfl, rfl⟩
  | @writes u hu =>
    obtain ⟨hcfg, hlocked, hparams, hie, hevents, hresp⟩ := hu.frame
    exact ⟨fun d _ hj => (by cases d <;> rfl : u.complete.elem d _ = u.elem d _).trans (hu.elem_eq d hj),
      fun _ hj => hu.proj_eq hj, fun _ hj => hu.affine_eq hj, fun _ hj => hu.choice_eq hj,
      fun _ _ => congrArg (Cfg.get · _) hcfg, fun _ => hlocked, fun hb => hu.resLen_eq hb, hie, hparams, hevents,
      hresp, rfl, rfl⟩
  | @slot slot off len hi =>
    refine ⟨fun d _ _ => by cases d <;> rfl, fun _ _ => rfl, fun _ _ => rfl, fun _ _ => rfl, fun slot' hne => ?_,
      fun _ => rfl, fun _ => rfl, rfl, rfl, rfl, rfl, rfl, rfl⟩
    exact (get_set s.cfg slot slot' _).trans (if_neg (by rintro rfl; exact hne off len hi))
  | lock hi =>
    exact ⟨fun d _ _ => by cases d <;> rfl, fun _ _ => rfl, fun _ _ => rfl, fun _ _ => rfl, fun _ _ => rfl,
      fun hne => absurd hi hne, fun _ => rfl, rfl, rfl, rfl, rfl, rfl, rfl⟩

/-- Settles O16, by the four ways in which a command completes. -/
theorem commandFrame : Obligations.CommandFrame := by
  intro i s t h
  obtain ⟨helem, hrest⟩ := (exec_cases h).frame
  exact ⟨helem .field, helem .scalar, hrest⟩

/-! ### Who writes LOCKED (R28) -/

/-- A command changes LOCKED only as a CFGLOCK whose checks pass, which sets it, and a slot only while LOCKED = 0. -/
theorem Completes.lock_cases {i : Instr} {s t : State} (h : Completes i s t) :
    (i = .cfglock ∧ cfgChecks s.params s.cfg = true ∧ s.locked = false ∧ t.locked = true) ∨
    (t.locked = s.locked ∧ (s.locked = true → t.cfg = s.cfg)) := by
  cases h with
  | fails => rw [raiseError_frame]; exact .inr ⟨rfl, fun _ => rfl⟩
  | writes hu =>
    obtain ⟨hcfg, hlocked, -⟩ := hu.frame
    exact .inr ⟨hlocked, fun _ => hcfg⟩
  | slot _ hl => exact .inr ⟨rfl, fun h1 => by simp [hl] at h1⟩
  | lock hi hl hc => exact .inl ⟨hi, hc, hl, rfl⟩

/-- A host access keeps LOCKED and the slots, but for a write to CTRL with SRST, which resets the core. -/
theorem access_lock_cases (s : State) (a : BusAccess) :
    ((s.access a).locked = s.locked ∧ (s.access a).cfg = s.cfg) ∨
    (∃ v, a.addr = s.params.base + 0x008 ∧ a.kind = .write v ∧ v.getLsbD 1 = true ∧
      s.access a = { s.resetCore with resp := some .ack }) := by
  obtain ⟨n, r, h⟩ | ⟨off, v, hk, ha, -, -, h⟩ := access_cases s a
  · rw [h]; exact .inl ⟨rfl, rfl⟩
  · rw [h]
    have hw := writeWindow_cases s off v
    generalize s.writeWindow off v = u at hw
    cases hw with
    | reset ho hv => exact .inr ⟨v, ho ▸ ha, hk, hv, rfl⟩
    | control | clear | busy | bytes => exact .inl ⟨rfl, rfl⟩

/-- The step from s to t was a reset: the platform's, or a write to CTRL with SRST (R320). -/
def ResetStep (s t : State) : Prop :=
  ∃ rest, t = { State.resetOf s.params with events := rest, draws := s.draws, resp := t.resp } ∧
    (s.events = .hardReset :: rest ∨
      ∃ a v, s.events = .access a :: rest ∧ a.addr = s.params.base + 0x008 ∧ a.kind = .write v ∧
        v.getLsbD 1 = true)

theorem ResetStep.locked_eq {s t : State} (h : ResetStep s t) : t.locked = false := by
  obtain ⟨rest, ht, -⟩ := h
  rw [ht]
  rfl

/-- A step locks by a CFGLOCK whose checks pass, resets, or keeps LOCKED and, while it stands, the slots. -/
theorem step_lock_cases {s t : State} (h : step s = .next t) :
    ((∃ c, s.inflight = some c ∧ decode c.word = .instr .cfglock) ∧ cfgChecks s.params s.cfg = true ∧
      s.locked = false ∧ t.locked = true) ∨
    ResetStep s t ∨
    (t.locked = s.locked ∧ (s.locked = true → t.cfg = s.cfg)) := by
  obtain ⟨c, hc, h⟩ | ⟨a, rest, he, rfl⟩ | ⟨rest, he, rfl⟩ | ⟨f, -, rfl⟩ := step_cases h
  · obtain ⟨i, hd, h⟩ | rfl := runWord_cases h
    · obtain ⟨rfl, hlock⟩ | hkeep := h.lock_cases
      · exact .inl ⟨⟨c, hc, hd⟩, hlock⟩
      · exact .inr (.inr hkeep)
    · rw [raiseError_frame]
      exact .inr (.inr ⟨rfl, fun _ => rfl⟩)
  · obtain ⟨hl, hcfg⟩ | ⟨v, ha, hk, hv, ht⟩ := access_lock_cases { s with events := rest } a
    · exact .inr (.inr ⟨hl, fun _ => hcfg⟩)
    · exact .inr (.inl ⟨rest, by rw [ht]; rfl, .inr ⟨a, v, he, ha, hk, hv⟩⟩)
  · exact .inr (.inl ⟨rest, rfl, .inl he⟩)
  · exact .inr (.inr ⟨rfl, fun _ => rfl⟩)

/-- Settles O14, by what a step does to LOCKED. -/
theorem lockedWriters : Obligations.LockedWriters := by
  intro s t h
  obtain ⟨hc, hchecks, hs, ht⟩ | hreset | ⟨hl, hcfg⟩ := step_lock_cases h
  · exact ⟨fun _ _ => ⟨hc, hchecks⟩, fun h1 _ => by simp [hs] at h1, fun h1 _ => by simp [hs] at h1⟩
  · have ht := hreset.locked_eq
    exact ⟨fun _ h1 => by simp [ht] at h1, fun _ _ => hreset, fun _ h1 => by simp [ht] at h1⟩
  · exact ⟨fun h0 h1 => by simp [hl, h0] at h1, fun h1 h0 => by simp [hl, h1] at h0, fun h1 _ => hcfg h1⟩

/-! ### Buffers in canonical form (log entry 7) -/

/-- The rest of a canonical buffer lists no offset up to the first one. -/
theorem memory_read_rest {c : Host.Cell} {m : Memory} (h : Memory.wf (c :: m)) {off : Nat} (hle : off ≤ c.1) :
    Memory.read m off = Memory.unlisted :=
  memory_read_below fun _ hd => lt_of_le_of_lt hle (List.rel_of_pairwise_cons h.1 hd)

theorem memory_wf_rest {c : Host.Cell} {m : Memory} (h : Memory.wf (c :: m)) : Memory.wf m :=
  ⟨(List.pairwise_cons.1 h.1).2, fun d hd => h.2 d (List.mem_cons_of_mem _ hd)⟩

/-- A canonical buffer reads other than 0 at its first listed offset. -/
theorem memory_read_head_ne {c : Host.Cell} {m : Memory} (h : Memory.wf (c :: m)) :
    Memory.read (c :: m) c.1 ≠ Memory.unlisted := by
  rw [memory_read_cons, if_pos rfl]
  exact (h.2 c List.mem_cons_self).2

/-- Of two canonical buffers that read alike, neither lists an offset below all of the other's. -/
theorem memory_head_le {c d : Host.Cell} {m m' : Memory} (h : Memory.wf (c :: m)) (h' : Memory.wf (d :: m'))
    (heq : ∀ off, Memory.read (c :: m) off = Memory.read (d :: m') off) : d.1 ≤ c.1 := by
  by_contra hlt
  rw [not_le] at hlt
  apply memory_read_head_ne h
  rw [heq, memory_read_cons, if_neg hlt.ne', memory_read_rest h' hlt.le]

/-- Settles O18, by induction on one buffer: the first entries agree, because each is the lowest offset at which its
buffer reads other than 0. -/
theorem equalBuffersEqualData : Obligations.EqualBuffersEqualData := by
  intro m
  induction m with
  | nil =>
    intro m' _ h' heq
    cases m' with
    | nil => rfl
    | cons d rest' => exact absurd (heq d.1).symm (memory_read_head_ne h')
  | cons c rest ih =>
    intro m' h h' heq
    cases m' with
    | nil => exact absurd (heq c.1) (memory_read_head_ne h)
    | cons d rest' =>
      have hoff : c.1 = d.1 := le_antisymm (memory_head_le h' h fun off => (heq off).symm) (memory_head_le h h' heq)
      have hbyte : c.2 = d.2 := by simpa [memory_read_cons, hoff] using heq c.1
      have hrest : ∀ off, Memory.read rest off = Memory.read rest' off := fun off => by
        by_cases ho : c.1 = off
        · rw [memory_read_rest h ho.ge, memory_read_rest h' (hoff ▸ ho.ge)]
        · simpa [memory_read_cons, ho, hoff ▸ ho] using heq off
      rw [Prod.ext hoff hbyte, ih rest' (memory_wf_rest h) (memory_wf_rest h') hrest]

end Sys2Proof.Machine

/-! ### The Montgomery form (R24)

One pass of the REDC loop divides by 2^W modulo m and keeps the value small, so REDC is the division by R = 2^(W·LIMBS)
modulo m, and R is invertible modulo an odd m. -/

namespace Sys2Proof.Machine

section
variable {w m minv : Nat} (hinv : (m * minv + 1) % 2 ^ w = 0)
include hinv

/-- The multiple of m that a pass adds clears the low limb, so that the division is exact. -/
theorem redcStep_mul (t : Nat) : redcStep w m minv t * 2 ^ w = t + t % 2 ^ w * minv % 2 ^ w * m := by
  apply Nat.div_mul_cancel
  rw [Nat.dvd_iff_mod_eq_zero]
  have hmod : t + t % 2 ^ w * minv % 2 ^ w * m ≡ t * (m * minv + 1) [MOD 2 ^ w] := by
    calc t + t % 2 ^ w * minv % 2 ^ w * m ≡ t + t * minv * m [MOD 2 ^ w] :=
          (((Nat.mod_modEq _ _).trans ((Nat.mod_modEq t _).mul_right minv)).mul_right m).add_left t
      _ = t * (m * minv + 1) := by ring
  exact hmod.trans ((Nat.modEq_zero_iff_dvd.2 (Nat.dvd_of_mod_eq_zero hinv)).mul_left t)

theorem redcStep_modEq (t : Nat) : redcStep w m minv t * 2 ^ w ≡ t [MOD m] := by
  rw [redcStep_mul hinv]
  exact (Nat.add_mul_modulus_modEq_iff).2 rfl

/-- A pass takes the bound of n + 1 limbs to that of n limbs. -/
theorem redcStep_lt {t n : Nat} (ht : t < m * ((2 ^ w) ^ (n + 1) + 1)) :
    redcStep w m minv t < m * ((2 ^ w) ^ n + 1) := by
  have hk : t % 2 ^ w * minv % 2 ^ w + 1 ≤ 2 ^ w := Nat.mod_lt _ (by positivity)
  refine lt_of_mul_lt_mul_right ?_ (Nat.zero_le (2 ^ w))
  calc redcStep w m minv t * 2 ^ w = t + t % 2 ^ w * minv % 2 ^ w * m := redcStep_mul hinv t
    _ < m * ((2 ^ w) ^ (n + 1) + 1) + t % 2 ^ w * minv % 2 ^ w * m := Nat.add_lt_add_right ht _
    _ = m * (2 ^ w) ^ (n + 1) + (t % 2 ^ w * minv % 2 ^ w + 1) * m := by ring
    _ ≤ m * (2 ^ w) ^ (n + 1) + 2 ^ w * m := Nat.add_le_add_left (Nat.mul_le_mul_right m hk) _
    _ = m * ((2 ^ w) ^ n + 1) * 2 ^ w := by ring

theorem redcLoop_modEq (n t : Nat) : redcLoop w m minv n t * (2 ^ w) ^ n ≡ t [MOD m] := by
  induction n generalizing t with
  | zero => simpa [redcLoop] using Nat.ModEq.refl t
  | succ n ih =>
    rw [redcLoop, pow_succ, ← mul_assoc]
    exact ((ih _).mul_right _).trans (redcStep_modEq hinv t)

theorem redcLoop_lt {n t : Nat} (ht : t < m * ((2 ^ w) ^ n + 1)) : redcLoop w m minv n t < 2 * m := by
  induction n generalizing t with
  | zero => simpa [redcLoop, mul_comm] using ht
  | succ n ih => exact ih (redcStep_lt hinv ht)

/-- REDC divides by R modulo m, for a value below m·R. -/
theorem redc_spec {limbs t : Nat} (ht : t < m * (2 ^ w) ^ limbs) :
    redc w m minv limbs t < m ∧ redc w m minv limbs t * (2 ^ w) ^ limbs ≡ t [MOD m] := by
  have hlt := redcLoop_lt hinv (ht.trans_le (Nat.mul_le_mul_left m (Nat.le_succ _)))
  have hmod := redcLoop_modEq hinv limbs t
  simp only [redc]
  split_ifs with hle
  · have hsub : redcLoop w m minv limbs t - m ≡ redcLoop w m minv limbs t [MOD m] :=
      Nat.add_modulus_modEq_iff.1 (by rw [Nat.sub_add_cancel hle])
    exact ⟨by omega, (hsub.mul_right _).trans hmod⟩
  · exact ⟨by omega, hmod⟩

/-- REDC finds the canonical v that the value is R times of. -/
theorem redc_eq (hodd : m % 2 = 1) {limbs t v : Nat} (ht : t < m * (2 ^ w) ^ limbs) (hv : v < m)
    (h : v * (2 ^ w) ^ limbs ≡ t [MOD m]) : redc w m minv limbs t = v := by
  obtain ⟨hlt, hmod⟩ := redc_spec hinv ht
  have hcop : Nat.Coprime m ((2 ^ w) ^ limbs) := by
    rw [← pow_mul]
    exact (Nat.coprime_two_right.2 (Nat.odd_iff.2 hodd)).pow_right _
  exact (Nat.ModEq.cancel_right_of_coprime hcop (hmod.trans h.symm)).eq_of_lt_of_lt hlt hv

/-- Conversion in, conversion out and product, for one modulus of at most R. -/
theorem montgomery_refinement (hodd : m % 2 = 1) {limbs r2 : Nat} (hR : m ≤ (2 ^ w) ^ limbs)
    (hr2 : r2 = (2 ^ w) ^ limbs * (2 ^ w) ^ limbs % m) (u : Nat) {v : Nat} (hv : v < m) :
    toMont w m minv limbs r2 v = v * (2 ^ w) ^ limbs % m ∧
    fromMont w m minv limbs (v * (2 ^ w) ^ limbs % m) = v ∧
    montMul w m minv limbs (u * (2 ^ w) ^ limbs % m) (v * (2 ^ w) ^ limbs % m) =
      (u * v % m) * (2 ^ w) ^ limbs % m := by
  have hm : 0 < m := Nat.zero_lt_of_lt hv
  have mod_lt : ∀ x, x % m < m := fun x => Nat.mod_lt x hm
  refine ⟨?_, ?_, ?_⟩
  · have hr2m : r2 < m := hr2 ▸ mod_lt _
    refine redc_eq hinv hodd (Nat.mul_lt_mul'' hv (hr2m.trans_le hR)) (mod_lt _) ?_
    calc v * (2 ^ w) ^ limbs % m * (2 ^ w) ^ limbs ≡ v * (2 ^ w) ^ limbs * (2 ^ w) ^ limbs [MOD m] :=
          (Nat.mod_modEq _ m).mul_right _
      _ = v * ((2 ^ w) ^ limbs * (2 ^ w) ^ limbs) := mul_assoc _ _ _
      _ ≡ v * r2 [MOD m] := hr2 ▸ (Nat.mod_modEq _ m).symm.mul_left v
  · refine redc_eq hinv hodd ?_ hv (Nat.mod_modEq _ m).symm
    calc v * (2 ^ w) ^ limbs % m < m * 1 := by rw [mul_one]; exact mod_lt _
      _ ≤ m * (2 ^ w) ^ limbs := Nat.mul_le_mul_left m (Nat.one_le_pow _ _ (Nat.two_pow_pos w))
  · refine redc_eq hinv hodd (Nat.mul_lt_mul'' (mod_lt _) ((mod_lt _).trans_le hR)) (mod_lt _) ?_
    calc u * v % m * (2 ^ w) ^ limbs % m * (2 ^ w) ^ limbs
        ≡ u * v * (2 ^ w) ^ limbs * (2 ^ w) ^ limbs [MOD m] :=
          ((Nat.mod_modEq _ m).trans ((Nat.mod_modEq _ m).mul_right _)).mul_right _
      _ = u * (2 ^ w) ^ limbs * (v * (2 ^ w) ^ limbs) := by ring
      _ ≡ u * (2 ^ w) ^ limbs % m * (v * (2 ^ w) ^ limbs % m) [MOD m] :=
          ((Nat.mod_modEq _ m).mul (Nat.mod_modEq _ m)).symm

end

/-- R covers every value of L bits. -/
theorem two_pow_l_le_radix (c : Cfg) (p : Params) : 2 ^ c.l ≤ c.radix p := by
  refine Nat.pow_le_pow_right (by decide) ?_
  cases hw : p.limb <;> simp only [Cfg.limbs, hw, LimbWidth.bits] <;> omega

theorem radix_eq (c : Cfg) (p : Params) : c.radix p = (2 ^ p.limb.bits) ^ c.limbs p := pow_mul _ _ _

/-- The Montgomery arithmetic for one modulus and its constants, as the checks of R261 pass them. -/
theorem montgomery_of_legal {prm : Params} {c : Cfg} {m r2 minv : Nat} (hm : legalModulus c.l m = true)
    (hr2 : legalR2 (c.radix prm) m r2 = true) (hminv : legalInverse prm.limb.bits m minv = true) (u : Nat) {v : Nat}
    (hv : v < m) :
    toMont prm.limb.bits m minv (c.limbs prm) r2 v = v * c.radix prm % m ∧
    fromMont prm.limb.bits m minv (c.limbs prm) (v * c.radix prm % m) = v ∧
    montMul prm.limb.bits m minv (c.limbs prm) (u * c.radix prm % m) (v * c.radix prm % m) =
      (u * v % m) * c.radix prm % m := by
  obtain ⟨hodd, -, hlt⟩ := legalModulus_spec hm
  have hR := hlt.le.trans (two_pow_l_le_radix c prm)
  simp only [legalR2, beq_iff_eq] at hr2
  simp only [legalInverse, Bool.and_eq_true, beq_iff_eq] at hminv
  rw [radix_eq] at hR hr2 ⊢
  exact montgomery_refinement hminv.2 hodd hR hr2 u hv

/-- Settles O34: the checks of R261 make the constants of both moduli right. -/
theorem montgomeryRefinement : Obligations.MontgomeryRefinement := by
  intro s hi hl
  obtain ⟨-, -, hp, hn, -, -, -, -, ⟨hr2p, hr2n⟩, hpinv, hninv⟩ := cfgChecks_spec (hi.legalCfg hl)
  exact ⟨fun u _ _ hv => montgomery_of_legal hp hr2p hpinv u hv,
    fun u _ _ hv => montgomery_of_legal hn hr2n hninv u hv⟩

end Sys2Proof.Machine

/-! ### The buffer under a command (R50, R128, R241) -/

namespace Sys2Proof.Machine

/-- A write leaves a read at every other offset as it was, in any list of cells, canonical or not. -/
theorem memory_read_write_ne (m : Memory) {off a : Nat} (v : Byte) (h : a ≠ off) :
    Memory.read (m.write off v) a = Memory.read m a := by
  induction m with
  | nil =>
    rw [Memory.write]
    split_ifs
    · rfl
    · rw [memory_read_cons, if_neg h.symm]
  | cons c rest ih =>
    rw [memory_write_cons]
    split_ifs with hlt hv heq hv
    · rfl
    · rw [memory_read_cons, if_neg h.symm]
    · rw [memory_read_cons c, if_neg (heq ▸ h.symm)]
    · rw [memory_read_cons, memory_read_cons c, if_neg h.symm, if_neg (heq ▸ h.symm)]
    · rw [memory_read_cons, memory_read_cons c, ih]

/-- Writing a string leaves a read outside it as it was. -/
theorem memory_read_writeBytes_outside (m : Memory) {off a : Nat} {bytes : List Byte}
    (h : a < off ∨ off + bytes.length ≤ a) : Memory.read (m.writeBytes off bytes) a = Memory.read m a := by
  induction bytes generalizing m off with
  | nil => rfl
  | cons v rest ih =>
    rw [List.length_cons] at h
    rw [Memory.writeBytes, ih _ (by omega), memory_read_write_ne m v (by omega)]

/-- A command's writes leave the bytes outside its stored string as they were. -/
theorem Writes.read_eq {i : Instr} {s u : State} (h : Writes i s u) {a : Nat}
    (ha : ∀ off n, writesBytes s i = some (off, n) → a < off ∨ off + n ≤ a) : u.buf.read a = s.buf.read a := by
  induction h with
  | none => rfl
  | bytes _ hw _ ih => exact (memory_read_writeBytes_outside _ (ha _ _ hw)).trans ih
  | elem _ _ _ _ ih => rwa [setElem_buf]
  | proj _ _ _ _ ih | affine _ _ _ _ ih | choice _ _ _ ih | draw _ _ ih => exact ih

/-- So does its completion, in whatever way the command completes. -/
theorem Completes.read_eq {i : Instr} {s t : State} (h : Completes i s t) {a : Nat}
    (ha : ∀ off n, writesBytes s i = some (off, n) → a < off ∨ off + n ≤ a) : t.buf.read a = s.buf.read a := by
  cases h with
  | fails => rw [raiseError_frame]; rfl
  | writes hu => exact hu.read_eq ha
  | slot | lock => rfl

/-- Settles O17, by the four ways in which a command completes. -/
theorem bufferFrame : Obligations.BufferFrame := by
  intro i s t h
  split
  · next off n hw =>
    intro a ha
    refine (exec_cases h).read_eq fun off' n' hw' => ?_
    obtain ⟨rfl, rfl⟩ : off = off' ∧ n = n' := by simpa [hw] using hw'
    exact ha
  · next hw => exact fun a => (exec_cases h).read_eq fun off n hw' => by simp [hw] at hw'

/-! ### Aligned host accesses inside the window (R52, R53) -/

section
variable (s : State) {off : Nat}

theorem access_writeOf (ho : off < Config.windowSize) (ha : off % 4 = 0) (v : Word) :
    s.access (s.writeOf off v) = { s.writeWindow off v with resp := some .ack } := by
  simp [State.access, State.writeOf, BusAccess.decoded, inWindow_offset s ho, aligned_offset, ha]

theorem access_readOf (ho : off < Config.windowSize) (ha : off % 4 = 0) :
    s.access (s.readOf off) = { (s.readWindow off).2 with resp := some (.data (s.readWindow off).1) } := by
  simp [State.access, State.readOf, BusAccess.decoded, inWindow_offset s ho, aligned_offset, ha, State.answerRead]

theorem access_of_not_decoded (kind : AccessKind) (ho : off < Config.windowSize) {width : Nat}
    (h : width ≠ 32 ∨ off % 4 ≠ 0) :
    s.access ⟨kind, s.params.base + off, width⟩ = { s with resp := some .busError } := by
  have hd : (width == 32 && off % 4 == 0) = false := by simpa [← not_and_or] using h
  simp [State.access, BusAccess.decoded, inWindow_offset s ho, aligned_offset, hd]

theorem access_fetch (addr width : Nat) : s.access ⟨.fetch, addr, width⟩ = s.access ⟨.read, addr, width⟩ := rfl

theorem readWindow_buffer (h : 0x100 ≤ off) : s.readWindow off = s.readBuffer (off - 0x100) := by
  simp only [State.readWindow, if_pos h]
  repeat rw [if_neg (by omega)]

theorem readWindow_reserved (h : 0x01C ≤ off) (h' : off < 0x100) : s.readWindow off = (0, s) := by
  unfold State.readWindow
  repeat rw [if_neg (by omega)]

theorem writeWindow_buffer (h : 0x100 ≤ off) (v : Word) : s.writeWindow off v = s.writeBuffer (off - 0x100) v := by
  simp only [State.writeWindow, if_pos h]
  repeat rw [if_neg (by omega)]

/-- A write below the buffer to another register than CTRL, STATUS and CMD is ignored (R53, R60). -/
theorem writeWindow_ignored (h8 : off ≠ 0x008) (hC : off ≠ 0x00C) (h10 : off ≠ 0x010) (h : off < 0x100) (v : Word) :
    s.writeWindow off v = s := by
  rw [State.writeWindow, if_neg h8, if_neg hC, if_neg h10, if_neg (by omega)]

end

/-! ### The buffer window (R61, R62) -/

/-- The byte of lane k of a window word is its bits 8k to 8k + 7 (R61). -/
theorem laneBytes_getD (v : Word) {k : Nat} (hk : k < 4) : (laneBytes v).getD k 0 = v.extractLsb' (8 * k) 8 := by
  interval_cases k <;> rfl

theorem extract_laneWord (m : Memory) (off : Nat) {k : Nat} (hk : k < 4) :
    (laneWord m off).extractLsb' (8 * k) 8 = m.read (off + k) := by
  unfold laneWord
  interval_cases k
  · exact BitVec.extractLsb'_append_eq_right
  · exact (BitVec.extractLsb'_append_eq_of_le (by decide)).trans BitVec.extractLsb'_append_eq_right
  · exact (BitVec.extractLsb'_append_eq_of_le (by decide)).trans <|
      (BitVec.extractLsb'_append_eq_of_le (by decide)).trans BitVec.extractLsb'_append_eq_right
  · exact (BitVec.extractLsb'_append_eq_of_le (by decide)).trans <|
      (BitVec.extractLsb'_append_eq_of_le (by decide)).trans BitVec.extractLsb'_append_eq_left

theorem read_writeBytes_laneBytes {m : Memory} (h : m.wf) {j : Nat} (hj : j < 64) (v : Word) {k : Nat} (hk : k < 4) :
    (m.writeBytes (4 * j) (laneBytes v)).read (4 * j + k) = v.extractLsb' (8 * k) 8 := by
  have hlen : (laneBytes v).length = 4 := rfl
  rw [memory_read_writeBytes h _ _ (by rw [hlen, Config.bufSize]; omega), if_pos (by omega), Nat.add_sub_cancel_left,
    laneBytes_getD v hk]

section
variable {s : State}

theorem writeBuffer_of_idle (hb : s.busy = false) (off : Nat) (v : Word) :
    s.writeBuffer off v = { s with buf := s.buf.writeBytes off (laneBytes v) } := by simp [State.writeBuffer, hb]

theorem writeBuffer_of_busy (hb : s.busy = true) (off : Nat) (v : Word) :
    s.writeBuffer off v = if s.err then s else s.raiseBusy 0 := by rw [State.writeBuffer, if_pos hb]

theorem readBuffer_of_idle (hb : s.busy = false) (off : Nat) : s.readBuffer off = (laneWord s.buf off, s) := by
  simp [State.readBuffer, hb]

theorem readBuffer_of_busy (hb : s.busy = true) (off : Nat) :
    s.readBuffer off = (Config.freeWord s.draws, { s with draws := s.draws + 1 }) := by rw [State.readBuffer, if_pos hb]

end

section
variable (s : State) {j : Nat} (hj : j < 64)
include hj

theorem access_write_buffer (v : Word) :
    s.access (s.writeOf (0x100 + 4 * j) v) = { s.writeBuffer (4 * j) v with resp := some .ack } := by
  rw [access_writeOf s (by rw [Config.windowSize]; omega) (by omega), writeWindow_buffer s (by omega),
    Nat.add_sub_cancel_left]

theorem access_read_buffer :
    s.access (s.readOf (0x100 + 4 * j)) =
      { (s.readBuffer (4 * j)).2 with resp := some (.data (s.readBuffer (4 * j)).1) } := by
  rw [access_readOf s (by rw [Config.windowSize]; omega) (by omega), readWindow_buffer s (by omega),
    Nat.add_sub_cancel_left]

end

/-- Settles O25, by whether a command is in flight. -/
theorem bufferWindow : Obligations.BufferWindow := by
  intro s j v hj
  rw [access_write_buffer s hj, access_read_buffer s hj]
  refine ⟨fun hb => ?idle, fun hb => ?busy⟩
  case idle =>
    rw [writeBuffer_of_idle hb, readBuffer_of_idle hb]
    exact ⟨fun hwf => ⟨_, rfl, fun k hk => read_writeBytes_laneBytes hwf hj v hk,
      fun a ha => memory_read_writeBytes_outside s.buf ha⟩, _, rfl, fun k hk => extract_laneWord s.buf (4 * j) hk⟩
  case busy =>
    rw [writeBuffer_of_busy hb, readBuffer_of_busy hb]
    refine ⟨fun he => ?_, fun he => ?_, _, rfl⟩
    · rw [if_neg (by simp [he])]; rfl
    · rw [if_pos he]

/-! ### What the host can do while a command is in flight (R62, R65) -/

section
variable {s : State} (hb : s.busy = true)
include hb

/-- While BUSY = 1 a host write resets the core, or changes no more than IE, DONE, ERR, ERRCODE and ERRCMD. -/
theorem writeWindow_of_busy (off : Nat) (v : Word) :
    s.writeWindow off v = s.resetCore ∨
      ∃ ie done err errCode errCmd,
        s.writeWindow off v = { s with ie := ie, done := done, err := err, errCode := errCode, errCmd := errCmd } := by
  unfold State.writeWindow
  split_ifs
  · unfold State.writeCtrl
    split_ifs
    · exact .inl rfl
    · exact .inr ⟨_, _, _, _, _, rfl⟩
  · unfold State.writeStatus
    split_ifs <;> exact .inr ⟨_, _, _, _, _, rfl⟩
  · rw [State.submit, if_pos hb]
    split_ifs <;> exact .inr ⟨_, _, _, _, _, rfl⟩
  · rw [writeBuffer_of_busy hb]
    split_ifs <;> exact .inr ⟨_, _, _, _, _, rfl⟩
  · exact .inr ⟨_, _, _, _, _, rfl⟩

/-- While BUSY = 1 a host access abandons the command in flight, or leaves it and its operands. -/
theorem access_of_busy (a : BusAccess) :
    (s.access a).inflight = none ∨
      ∃ ie done err errCode errCmd resp draws,
        s.access a = { s with ie := ie, done := done, err := err, errCode := errCode, errCmd := errCmd, resp := resp,
                              draws := draws } := by
  obtain ⟨n, r, h⟩ | ⟨off, v, -, -, -, -, h⟩ := access_cases s a
  · exact .inr ⟨_, _, _, _, _, r, n, h⟩
  · obtain hw | ⟨ie, done, err, errCode, errCmd, hw⟩ := writeWindow_of_busy hb off v
    · rw [h, hw]; exact .inl rfl
    · rw [h, hw]; exact .inr ⟨ie, done, err, errCode, errCmd, _, _, rfl⟩

end

theorem Completes.inflight_eq {i : Instr} {s t : State} (h : Completes i s t) : t.inflight = none := by
  cases h with
  | fails | writes | slot | lock => rfl

theorem runWord_inflight {w : Word} {s t : State} (h : runWord w s = .next t) : t.inflight = none := by
  obtain ⟨i, -, hc⟩ | rfl := runWord_cases h
  · exact hc.inflight_eq
  · rfl

/-- A step from a state with a command in flight ends it, or leaves its word and its operands. -/
theorem step_of_inflight {s t : State} {c : InFlight} (hc : s.inflight = some c) (h : step s = .next t) :
    t.inflight = none ∨
      ∃ ie done err errCode errCmd left events resp draws,
        t = { s with ie := ie, done := done, err := err, errCode := errCode, errCmd := errCmd,
                     inflight := some { c with left := left }, events := events, resp := resp, draws := draws } := by
  unfold step at h
  split at h
  · rw [finish, hc] at h
    exact .inl (runWord_inflight h)
  · next e rest he =>
    cases e with
    | access a =>
      obtain rfl : State.access { s with events := rest } a = t := by simpa [handle] using h
      have hb : State.busy { s with events := rest } = true := by simp [State.busy, hc]
      obtain h0 | ⟨ie, done, err, errCode, errCmd, resp, draws, ht⟩ := access_of_busy hb a
      · exact .inl h0
      · rw [ht, hc]
        exact .inr ⟨ie, done, err, errCode, errCmd, c.left, rest, resp, draws, rfl⟩
    | wait =>
      simp only [handle, finish, hc] at h
      exact .inl (runWord_inflight h)
    | tick =>
      simp only [handle, passTime, hc] at h
      split_ifs at h with h0
      · exact .inl (runWord_inflight h)
      · obtain rfl := Host.Outcome.next.inj h
        exact .inr ⟨_, _, _, _, _, c.left - 1, rest, _, _, rfl⟩
    | hardReset =>
      obtain rfl : State.resetCore { s with events := rest } = t := by simpa [handle] using h
      exact .inl rfl

/-- Settles O30: a step that does not end the command in flight leaves its word and its operands. -/
theorem busyKeepsOperands : Obligations.BusyKeepsOperands := by
  intro s t c c' h hc hc'
  obtain h0 | ⟨ie, done, err, errCode, errCmd, left, events, resp, draws, rfl⟩ := step_of_inflight hc h
  · rw [h0] at hc'
    cases hc'
  · obtain rfl := Option.some.inj hc'
    exact ⟨rfl, rfl, rfl, rfl, rfl, rfl, rfl, rfl, rfl, rfl, rfl⟩

/-! ### STATUS (R56) -/

theorem bit_le_one (b : Bool) : bit b ≤ 1 := by cases b <;> decide

theorem errCode_num_le (c : ErrCode) : c.num ≤ 8 := by cases c <;> decide

/-- A bit of a window word, from the number that the word is made of. -/
theorem getLsbD_ofNat_eq {n i : Nat} {b : Bool} (hi : i < 32) (h : n / 2 ^ i % 2 = bit b) :
    (BitVec.ofNat 32 n).getLsbD i = b := by
  rw [BitVec.getLsbD_ofNat, Nat.testBit_eq_decide_div_mod_eq, h]
  cases b <;> simp [hi, bit]

/-- A field of a window word, from the number that the word is made of. -/
theorem toNat_extract_ofNat {n lo len : Nat} (hn : n < 2 ^ 32) :
    ((BitVec.ofNat 32 n).extractLsb' lo len).toNat = n / 2 ^ lo % 2 ^ len := by
  rw [BitVec.extractLsb'_toNat, BitVec.toNat_ofNat, Nat.mod_eq_of_lt hn, Nat.shiftRight_eq_div_pow]

/-- The K field has four bits, and its bit i is K[i]. -/
theorem kField_spec (s : State) : s.kField < 16 ∧ ∀ i : KReg, s.kField / 2 ^ (i : Nat) % 2 = bit (s.choice i) := by
  have h0 := bit_le_one s.kBits[0]
  have h1 := bit_le_one s.kBits[1]
  have h2 := bit_le_one s.kBits[2]
  have h3 := bit_le_one s.kBits[3]
  unfold State.kField State.choice
  refine ⟨by omega, fun i => ?_⟩
  fin_cases i <;> simp <;> omega

theorem status_fields (s : State) :
    s.status.getLsbD 0 = s.busy ∧ s.status.getLsbD 1 = s.done ∧ s.status.getLsbD 2 = s.err ∧
    s.status.getLsbD 3 = s.locked ∧ (s.status.extractLsb' 4 4).toNat = s.errCode.num ∧
    (∀ i : KReg, s.status.getLsbD (8 + i) = s.choice i) ∧ s.status.extractLsb' 12 20 = 0 := by
  have hbusy := bit_le_one s.busy
  have hdone := bit_le_one s.done
  have herr := bit_le_one s.err
  have hlocked := bit_le_one s.locked
  have hnum := errCode_num_le s.errCode
  obtain ⟨hk, hbit⟩ := kField_spec s
  unfold State.status
  refine ⟨getLsbD_ofNat_eq (by decide) (by omega), getLsbD_ofNat_eq (by decide) (by omega),
    getLsbD_ofNat_eq (by decide) (by omega), getLsbD_ofNat_eq (by decide) (by omega), ?code, fun i => ?choice, ?zeros⟩
  case code =>
    rw [toNat_extract_ofNat (by omega)]
    omega
  case choice =>
    refine getLsbD_ofNat_eq (by omega) ?_
    rw [← hbit i, pow_add, ← Nat.div_div_eq_div_mul]
    congr 2
    omega
  case zeros =>
    refine BitVec.eq_of_toNat_eq ((toNat_extract_ofNat (by omega)).trans (?_ : _ = 0))
    omega

theorem writeStatus_eq (s : State) (v : Word) :
    s.writeStatus v =
      { s with done := s.done && !v.getLsbD 1, err := s.err && !v.getLsbD 2,
               errCode := if v.getLsbD 2 then .none else s.errCode,
               errCmd := if v.getLsbD 2 then 0 else s.errCmd } := by
  unfold State.writeStatus State.clearError
  generalize v.getLsbD 1 = clearDone
  generalize v.getLsbD 2 = clearErr
  cases clearDone <;> cases clearErr <;> simp

/-- Settles O26. -/
theorem statusRegister : Obligations.StatusRegister := by
  refine fun s => ⟨⟨s.status, access_readOf s (by decide) (by decide), status_fields s⟩, fun v => ?_⟩
  rw [access_writeOf s (by decide) (by decide)]
  exact congrArg (fun t : State => { t with resp := some .ack }) (writeStatus_eq s v)

/-! ### The other registers (R54, R55, R58 to R60) -/

theorem paramWord_eq (p : Params) :
    (p.limb = .w64 → paramWord p = 0x00024040) ∧ (p.limb = .w32 → paramWord p = 0x00024020) :=
  ⟨fun h => by rw [paramWord, h]; rfl, fun h => by rw [paramWord, h]; rfl⟩

/-- A read of a register that answers a word and has no other effect. -/
theorem access_readOf_of_eq {s : State} {off : Nat} {w : Word} (ho : off < Config.windowSize) (ha : off % 4 = 0)
    (h : s.readWindow off = (w, s)) : s.access (s.readOf off) = { s with resp := some (.data w) } := by
  rw [access_readOf s ho ha, h]

/-- Settles O27: each register by what its offset reads, and each ignored write by its offset. -/
theorem windowRegisters : Obligations.WindowRegisters := by
  intro s
  obtain ⟨h64, h32⟩ := paramWord_eq s.params
  have hparam : s.access (s.readOf 0x004) = { s with resp := some (.data (paramWord s.params)) } :=
    access_readOf_of_eq (by decide) (by decide) rfl
  have hread (off : Nat) (hlo : 0x01C ≤ off) (hhi : off < 0x100) (ha : off % 4 = 0) :
      s.access (s.readOf off) = { s with resp := some (.data 0) } :=
    access_readOf_of_eq (hhi.trans (by decide)) ha (readWindow_reserved s hlo hhi)
  have hwrite (off : Nat) (v : Word)
      (h : off ∈ [0x000, 0x004, 0x014, 0x018] ∨ (0x01C ≤ off ∧ off < 0x100 ∧ off % 4 = 0)) :
      s.access (s.writeOf off v) = { s with resp := some .ack } := by
    simp only [List.mem_cons, List.not_mem_nil, or_false] at h
    rw [access_writeOf s (by rw [Config.windowSize]; omega) (by omega),
      writeWindow_ignored s (by omega) (by omega) (by omega) (by omega)]
  exact ⟨access_readOf_of_eq (by decide) (by decide) rfl, fun h => h64 h ▸ hparam, fun h => h32 h ▸ hparam,
    access_readOf_of_eq (by decide) (by decide) rfl, access_readOf_of_eq (by decide) (by decide) rfl,
    access_readOf_of_eq (by decide) (by decide) rfl, hread, hwrite, access_fetch s,
    fun kind _ _ ho h => access_of_not_decoded s kind ho h⟩

end Sys2Proof.Machine

namespace Sys2Proof

/-! ### Decoding and encoding agree (R80 to R85) -/

theorem Row.fits_iff {r : Row} {w : Word} : r.fits w = true ↔ w &&& r.mask = r.pat := by simp [Row.fits]

/-- The two rows ask for different values of a bit that both of them fix. -/
def Row.clash (r r' : Row) : Bool := r.pat &&& r'.mask != r'.pat &&& r.mask

theorem Row.not_both_fit {r r' : Row} (h : r.clash r' = true) (w : Word) :
    ¬(r.fits w = true ∧ r'.fits w = true) := by
  rintro ⟨hr, hr'⟩
  rw [Row.fits_iff] at hr hr'
  have heq : r.pat &&& r'.mask = r'.pat &&& r.mask := by
    rw [← hr, ← hr', BitVec.and_assoc, BitVec.and_assoc, BitVec.and_comm r.mask]
  simp [Row.clash, heq] at h

theorem opcodeTable_clash : opcodeTable.Pairwise fun r r' => r.clash r' = true := by decide +kernel

/-- Settles O3: every two rows ask for different values of a bit that both of them fix. -/
theorem opcodeRowsDisjoint : Obligations.OpcodeRowsDisjoint :=
  ⟨rfl, opcodeTable_clash.imp Row.not_both_fit⟩

theorem row_of_find {w : Word} {r : Row} (h : opcodeTable.find? (fun r => r.fits w) = some r) :
    r ∈ opcodeTable ∧ r.fits w = true :=
  ⟨List.mem_of_find?_eq_some h, List.find?_some (p := fun r : Row => r.fits w) h⟩

/-- A row that fits a word is the one the loop of R85 finds. -/
theorem decode_of_fits {r : Row} {w : Word} (hr : r ∈ opcodeTable) (hw : r.fits w = true) : decode w = r.build w := by
  obtain ⟨r', hfind⟩ := Option.isSome_iff_exists.1 (List.find?_isSome (p := fun r => r.fits w).2 ⟨r, hr, hw⟩)
  obtain ⟨hr', hw'⟩ := row_of_find hfind
  have : Std.Symm fun r r' : Row => ∀ w, ¬(r.fits w = true ∧ r'.fits w = true) :=
    ⟨fun _ _ h w hboth => h w hboth.symm⟩
  have heq : r = r' := by
    by_contra hne
    exact opcodeRowsDisjoint.2.forall hr hr' hne w ⟨hw, hw'⟩
  rw [decode, hfind, heq]

theorem exists_row_of_decode {w : Word} {i : Instr} (h : decode w = .instr i) :
    ∃ r ∈ opcodeTable, r.fits w = true ∧ r.build w = .instr i := by
  unfold decode at h
  split at h
  · next r hfind =>
    obtain ⟨hr, hw⟩ := row_of_find hfind
    exact ⟨r, hr, hw, h⟩
  · cases h

open Laws.EncodingFits in
/-- Every command's encoding fits the row that reads it back. -/
theorem encode_fits_row (i : Instr) : Statement i := by
  cases i
  exacts [nop, fadd _ _ _, sadd _ _ _, fsub _ _ _, ssub _ _ _, fneg _ _, sneg _ _, fmul _ _ _, smul _ _ _, fsqr _ _,
    ssqr _ _, finv _ _ _, sinv _ _ _, fsqrt _ _ _, ssqrt _ _ _, fnorm _ _, snorm _ _, fsel _ _ _ _, ssel _ _ _ _,
    fisz _ _, sisz _ _, fisodd _ _, sisodd _ _, feq _ _ _, seq _ _ _, sishigh _ _, fldc _ _, sldc _ _, fdec _ _ _ _,
    sdec _ _ _ _, fenc _ _ _, senc _ _ _, sred _ _ _, srednz _ _ _, padd _ _ _, paddm _ _ _, pdbl _ _, pneg _ _,
    pmul _ _ _, ptoaff _ _, pfroma _ _, psel _ _ _ _, pisid _ _, peq _ _ _, pldi _, aldi _, aldg _, aneg _ _,
    aonc _ _, aisid _ _, asel _ _ _ _, aget _ _ _, aset _ _ _ _, penc _ _ _ _, pdec _ _ _ _, cfgw _ _ _, cfglock,
    kmov _ _, knot _ _, kand _ _ _, kor _ _ _, kxor _ _ _, kclr _, kset _]

/-- Settles O1: the encoding fits a row that reads the command back, and no other row fits it. -/
theorem decodeOfEncode : Obligations.DecodeOfEncode := by
  intro i hwf
  obtain ⟨r, hr, hfits, hbuild⟩ := encode_fits_row i hwf
  exact (decode_of_fits hr hfits).trans hbuild

/-- Settles O4: each word is the encoding of its command (R91). -/
theorem specWordsDecode : Obligations.SpecWordsDecode :=
  ⟨decodeOfEncode .nop rfl, decodeOfEncode (.fmul 3 1 2) rfl, decodeOfEncode (.smul 3 1 2) rfl,
    decodeOfEncode (.finv 4 1 3) rfl, decodeOfEncode (.fsel 1 2 3 2) rfl, decodeOfEncode (.fldc 5 .b) rfl,
    decodeOfEncode (.fdec 0 0 0x00 32) rfl, decodeOfEncode (.fenc 2 0x40 32) rfl, decodeOfEncode (.sred 1 0x00 64) rfl,
    decodeOfEncode (.padd 2 0 1) rfl, decodeOfEncode (.pmul 1 0 5) rfl, decodeOfEncode (.ptoaff 1 1) rfl,
    decodeOfEncode (.penc 1 0 0x00 .compressed) rfl, decodeOfEncode (.penc 1 0 0x00 .uncompressed) rfl,
    decodeOfEncode (.pdec 2 3 0x10 33) rfl, decodeOfEncode (.cfgw .P 0x00 32) rfl, decodeOfEncode .cfglock rfl,
    decodeOfEncode (.kand 0 1 2) rfl⟩

/-! ### Each command has one word (R84, R85, R88) -/

/-- A field that is read and placed again keeps its own bits of the word and no others. -/
theorem place_extract (lo n : Nat) (w : Word) :
    place lo (w.extractLsb' lo n).toNat = w &&& place lo (2 ^ n - 1) := by
  apply BitVec.eq_of_getLsbD_eq
  intro k hk
  rw [BitVec.getLsbD_and, place_getLsbD, place_getLsbD, BitVec.testBit_toNat, BitVec.getLsbD_extractLsb',
    Nat.testBit_two_pow_sub_one]
  by_cases hlo : lo ≤ k
  · simp [hk, hlo, Bool.and_comm]
  · simp [hlo]

theorem place_eField (lo : Nat) (w : Word) : place lo (eField lo w) = w &&& (15#32 <<< lo) := place_extract lo 4 w
theorem place_pField (lo : Nat) (w : Word) : place lo (pField lo w) = w &&& (7#32 <<< lo) := place_extract lo 3 w
theorem place_kField (lo : Nat) (w : Word) : place lo (kField lo w) = w &&& (3#32 <<< lo) := place_extract lo 2 w
theorem place_byteField (lo : Nat) (w : Word) : place lo (byteField lo w) = w &&& (255#32 <<< lo) :=
  place_extract lo 8 w

theorem fConstOf_code {v : Nat} (h : v < 4) : (fConstOf v).code = v := by interval_cases v <;> rfl
theorem sConstOf_code {v : Nat} (h : v < 2) : (sConstOf v).code = v := by interval_cases v <;> rfl
theorem coordOf_code {v : Nat} (h : v < 2) : (coordOf v).code = v := by interval_cases v <;> rfl

theorem place_fConstField (w : Word) : place 0 (fConstField w).code = w &&& 3#32 :=
  (congrArg (place 0) (fConstOf_code (BitVec.isLt _))).trans (place_extract 0 2 w)
theorem place_sConstField (w : Word) : place 0 (sConstField w).code = w &&& 1#32 :=
  (congrArg (place 0) (sConstOf_code (BitVec.isLt _))).trans (place_extract 0 1 w)
theorem place_coordField (w : Word) : place 0 (coordField w).code = w &&& 1#32 :=
  (congrArg (place 0) (coordOf_code (BitVec.isLt _))).trans (place_extract 0 1 w)

theorem formOf_code {v : Nat} {form : Form} (h : formOf v = some form) : form.code = v := by
  unfold formOf at h
  split at h <;> cases h <;> rfl

theorem slotOf_code {v : Nat} {slot : Slot} (h : slotOf v = some slot) : slot.code = v := by
  unfold slotOf at h
  split at h <;> cases h <;> rfl

theorem place_form {w : Word} {form : Form} (h : formOf (w.extractLsb' 23 2).toNat = some form) :
    place 23 form.code = w &&& (3#32 <<< 23) := (congrArg (place 23) (formOf_code h)).trans (place_extract 23 2 w)
theorem place_slot {w : Word} {slot : Slot} (h : slotOf (w.extractLsb' 16 4).toNat = some slot) :
    place 16 slot.code = w &&& (15#32 <<< 16) := (congrArg (place 16) (slotOf_code h)).trans (place_extract 16 4 w)

theorem fitsByte_byteField (lo : Nat) (w : Word) : fitsByte (byteField lo w) = true :=
  fitsByte_iff.2 (BitVec.isLt _)

/-- What the row reads from a word that fits it is well formed and has that word as its encoding. -/
def Row.Inverts (r : Row) : Prop := ∀ w i, r.fits w = true → r.build w = .instr i → i.wf = true ∧ encode i = w

/-- A word that fits a row is made of the row's fixed bits and its own in the operand fields. -/
theorem Row.word_of_fits {r : Row} {w : Word} (h : r.fits w = true) : r.pat ||| (w &&& ~~~r.mask) = w := by
  rw [← Row.fits_iff.1 h, ← BitVec.and_or_distrib_left, BitVec.or_not_self, BitVec.and_allOnes]

theorem Row.inverts_of_read {mnemonic : String} {pat mask : Word} {read : Word → Instr}
    (h : ∀ w, (read w).wf = true ∧ encode (read w) = pat ||| (w &&& ~~~mask)) :
    Row.Inverts ⟨mnemonic, pat, mask, fun w => .instr (read w)⟩ := by
  intro w i hfits hi
  obtain rfl := Decoded.instr.inj hi
  obtain ⟨hwf, henc⟩ := h w
  exact ⟨hwf, henc.trans (Row.word_of_fits hfits)⟩

theorem pencRow_inverts : Row.Inverts ⟨"PENC", 0xE0000000, 0xFE48FF00, fun w => pencOf w⟩ := by
  intro w i hfits hi
  simp only [pencOf] at hi
  split at hi
  · next form hform =>
    obtain rfl := Decoded.instr.inj hi
    refine ⟨fitsByte_byteField 0 w, Eq.trans ?_ (Row.word_of_fits hfits)⟩
    simp [encode, place_form hform, place_pField, place_kField, place_byteField, BitVec.or_assoc,
      ← BitVec.and_or_distrib_left]
  · cases hi

theorem cfgwRow_inverts : Row.Inverts ⟨"CFGW", 0xF0000000, 0xFFF00000, fun w => cfgwOf w⟩ := by
  intro w i hfits hi
  simp only [cfgwOf] at hi
  split at hi
  · next slot hslot =>
    obtain rfl := Decoded.instr.inj hi
    refine ⟨by simp [Instr.wf, fitsByte_byteField], Eq.trans ?_ (Row.word_of_fits hfits)⟩
    simp [encode, place_slot hslot, place_byteField, BitVec.or_assoc, ← BitVec.and_or_distrib_left]
  · cases hi

/-- Every row inverts: its operand fields are all the bits that its mask leaves free. -/
theorem opcodeTable_inverts : ∀ r ∈ opcodeTable, r.Inverts := by
  simp only [opcodeTable, elementRows, byteRows, projectiveRows, affineControlRows, List.forall_mem_append,
    List.forall_mem_cons, List.not_mem_nil, false_imp_iff, implies_true, pencRow_inverts, cfgwRow_inverts, true_and,
    and_true]
  and_intros
  all_goals
    refine Row.inverts_of_read fun w => ⟨?_, ?_⟩
    · simp [Instr.wf, fitsByte_byteField]
    · simp [encode, place_eField, place_pField, place_kField, place_byteField, place_fConstField, place_sConstField,
        place_coordField, BitVec.or_assoc, ← BitVec.and_or_distrib_left]

/-- Settles O2, by the row that reads the command. -/
theorem encodeOfDecode : Obligations.EncodeOfDecode := by
  intro w i h
  obtain ⟨r, hr, hfits, hbuild⟩ := exists_row_of_decode h
  exact opcodeTable_inverts r hr w i hfits hbuild

/-! ### Reserved and malformed words (R86) -/

/-- A word is illegal when every row that fits it reads no command from it. -/
theorem illegal_of_rows {w : Word} (h : ∀ r ∈ opcodeTable, r.fits w = true → ∃ why, r.build w = .illegal why) :
    ∃ why, decode w = .illegal why := by
  unfold decode
  split
  · next r hfind =>
    obtain ⟨hr, hw⟩ := row_of_find hfind
    exact h r hr hw
  · exact ⟨.noRow, rfl⟩

theorem extract_of_fits {r : Row} {w : Word} (h : r.fits w = true) {lo n : Nat}
    (hmask : r.mask.extractLsb' lo n = BitVec.allOnes n) : w.extractLsb' lo n = r.pat.extractLsb' lo n := by
  rw [← Row.fits_iff.1 h, BitVec.extractLsb'_and, hmask, BitVec.and_allOnes]

/-- The fields by which a row of the opcode map is chosen: OP, M and, for the KOP group, FN (R80, R84). -/
structure RowKey where
  op : Nat
  domain : Bool
  fn : Nat

/-- The key of a word; 0 stands for FN outside the KOP group (OP 0x3E). -/
def rowKey (w : Word) : RowKey :=
  ⟨(w.extractLsb' 26 6).toNat, w.getLsbD 25,
    if (w.extractLsb' 26 6).toNat = 0x3E then (w.extractLsb' 0 4).toNat else 0⟩

theorem rowKey_fn {w : Word} (h : (rowKey w).op = 0x3E) : (rowKey w).fn = (w.extractLsb' 0 4).toNat := if_pos h

/-- Every row fixes OP and M, and those of the KOP group fix FN. -/
theorem opcodeTable_fixes_key :
    ∀ r ∈ opcodeTable, r.mask.extractLsb' 26 6 = BitVec.allOnes 6 ∧ r.mask.getLsbD 25 = true ∧
      ((rowKey r.pat).op = 0x3E → r.mask.extractLsb' 0 4 = BitVec.allOnes 4) := by decide +kernel

theorem rowKey_of_fits {r : Row} (hr : r ∈ opcodeTable) {w : Word} (h : r.fits w = true) : rowKey w = rowKey r.pat := by
  obtain ⟨hop, hm, hfn⟩ := opcodeTable_fixes_key r hr
  have hop' := extract_of_fits h hop
  have hm' : w.getLsbD 25 = r.pat.getLsbD 25 := by
    rw [← Row.fits_iff.1 h, BitVec.getLsbD_and, hm, Bool.and_true]
  unfold rowKey
  rw [hop', hm']
  split_ifs with hkop
  · rw [extract_of_fits h (hfn hkop)]
  · rfl

theorem illegal_of_key {w : Word} {P : RowKey → Prop} (hP : P (rowKey w))
    (h : ∀ r ∈ opcodeTable, ¬P (rowKey r.pat)) : ∃ why, decode w = .illegal why :=
  illegal_of_rows fun r hr hw => absurd (rowKey_of_fits hr hw ▸ hP) (h r hr)

/-- The bits that the row asks to be 0. -/
def Row.zeros (r : Row) : Word := r.mask &&& ~~~r.pat

theorem and_zeros_of_fits {r : Row} {w : Word} (h : r.fits w = true) : w &&& r.zeros = 0 := by
  rw [Row.zeros, ← BitVec.and_assoc, Row.fits_iff.1 h, BitVec.and_not_self]

/-- A set bit makes a word illegal when every row of its key asks for a 0 there. -/
theorem illegal_of_bits {w e : Word} {P : RowKey → Prop} (hP : P (rowKey w)) (he : w &&& e ≠ 0)
    (h : ∀ r ∈ opcodeTable, P (rowKey r.pat) → r.zeros &&& e = e) : ∃ why, decode w = .illegal why := by
  refine illegal_of_rows fun r hr hw => absurd ?_ he
  rw [← h r hr (rowKey_of_fits hr hw ▸ hP), ← BitVec.and_assoc, and_zeros_of_fits hw]
  exact BitVec.zero_and

theorem illegal_of_entries {w : Word} {l : List (List Nat × Word)}
    (hw : ∃ e ∈ l, (rowKey w).op ∈ e.1 ∧ w &&& e.2 ≠ 0)
    (h : ∀ e ∈ l, ∀ r ∈ opcodeTable, (rowKey r.pat).op ∈ e.1 → r.zeros &&& e.2 = e.2) :
    ∃ why, decode w = .illegal why := by
  obtain ⟨e, he, hop, hbits⟩ := hw
  exact illegal_of_bits (P := fun k => k.op ∈ e.1) hop hbits (h e he)

theorem and_twoPow_ne_zero {w : Word} {k : Nat} (hk : k < 32) (h : w.getLsbD k = true) :
    w &&& BitVec.twoPow 32 k ≠ 0 := by
  intro h0
  have hbit := congrArg (BitVec.getLsbD · k) h0
  rw [BitVec.getLsbD_and, h, BitVec.getLsbD_twoPow] at hbit
  simp [hk] at hbit

theorem and_ne_zero_of_fn {w e : Word} {c : Nat} (h : c ≤ (w.extractLsb' 0 4).toNat)
    (hc : ∀ x : BitVec 4, c ≤ x.toNat → x &&& e.extractLsb' 0 4 ≠ 0) : w &&& e ≠ 0 := by
  intro h0
  apply hc _ h
  rw [← BitVec.extractLsb'_and, h0]
  exact BitVec.extractLsb'_zero

theorem build_eq_pencOf : ∀ r ∈ opcodeTable, (rowKey r.pat).op = 0x38 → r.build = pencOf := by
  simp [opcodeTable, elementRows, byteRows, projectiveRows, affineControlRows, rowKey]

theorem build_eq_cfgwOf : ∀ r ∈ opcodeTable, (rowKey r.pat).op = 0x3C → r.build = cfgwOf := by
  simp [opcodeTable, elementRows, byteRows, projectiveRows, affineControlRows, rowKey]

theorem slotOf_eq_none {v : Nat} (h : 12 ≤ v) : slotOf v = none := by
  obtain ⟨k, rfl⟩ := Nat.exists_eq_add_of_le' h
  rfl

/-- Settles O5: each kind of reserved word has a key that no row has, or sets a bit that the rows of its key ask to be
0, or has a FORM or a slot that PENC or CFGW rejects. -/
theorem reservedWordsIllegal : Obligations.ReservedWordsIllegal := by
  rintro w (hop | ⟨hop, hw⟩ | ⟨hbit, hop⟩ | ⟨hbit, hop⟩ | ⟨hbit, hop⟩ | ⟨hform, hop⟩ | ⟨hbit, hop⟩ | ⟨hbit, hop⟩ |
    ⟨hbit, hop⟩ | hentry | ⟨hop, hfn, hbits⟩ | ⟨hop, hfn, hbits⟩ | ⟨hop, hfn⟩ | ⟨hop, hm, hfn⟩ | ⟨hop, hfn⟩ |
    ⟨hop, hfn⟩ | ⟨hop, hslot⟩)
  -- a reserved opcode
  · exact illegal_of_key (P := fun k => k.op ∈ _) hop (by decide +kernel)
  -- OP = 0 beside NOP
  · exact illegal_of_bits (P := fun k => k.op = 0) (e := BitVec.allOnes 32) hop (by rwa [BitVec.and_allOnes])
      (by decide +kernel)
  -- M = 1 with a non-element opcode
  · exact illegal_of_bits (P := fun k => 0x20 ≤ k.op) hop (and_twoPow_ne_zero (by decide) hbit) (by decide +kernel)
  -- M = 0 with SISHIGH, SRED or SREDNZ
  · exact illegal_of_key (P := fun k => k.domain = false ∧ k.op ∈ _) ⟨hbit, hop⟩ (by decide +kernel)
  -- bit 24 of any word but PENC's
  · exact illegal_of_bits (P := fun k => k.op ≠ 0x38) hop (and_twoPow_ne_zero (by decide) hbit) (by decide +kernel)
  -- FORM = 3
  · refine illegal_of_rows fun r hr hw => ⟨.pencForm, ?_⟩
    rw [build_eq_pencOf r hr (rowKey_of_fits hr hw ▸ hop), pencOf, hform]
    rfl
  -- bit 19: a Q or A index in RD or RG
  · exact illegal_of_bits (P := fun k => 0x20 ≤ k.op ∧ k.op ≠ 0x36 ∧ k.op ≠ 0x3C) hop
      (and_twoPow_ne_zero (by decide) hbit) (by decide +kernel)
  -- bit 15: a Q or A index in RA
  · exact illegal_of_bits (P := fun k => k.op ∈ _) hop (and_twoPow_ne_zero (by decide) hbit) (by decide +kernel)
  -- bit 11: a Q or A index in RB
  · exact illegal_of_bits (P := fun k => k.op ∈ _) hop (and_twoPow_ne_zero (by decide) hbit) (by decide +kernel)
  -- the unused bits of each opcode
  · exact illegal_of_entries hentry (by decide +kernel)
  -- KMOV and KNOT: RB
  · exact illegal_of_bits (P := fun k => k.op = 0x3E ∧ k.fn ∈ _) ⟨hop, rowKey_fn hop ▸ hfn⟩ hbits (by decide +kernel)
  -- KCLR and KSET: RA and RB
  · exact illegal_of_bits (P := fun k => k.op = 0x3E ∧ k.fn ∈ _) ⟨hop, rowKey_fn hop ▸ hfn⟩ hbits (by decide +kernel)
  -- FLDC and SLDC: FN of 4 and more
  · exact illegal_of_bits (P := fun k => k.op = 0x0E) (e := 0xC) hop (and_ne_zero_of_fn hfn (by decide))
      (by decide +kernel)
  -- SLDC: FN of 2 and more
  · exact illegal_of_bits (P := fun k => k.op = 0x0E ∧ k.domain = true) (e := 0xE) ⟨hop, hm⟩
      (and_ne_zero_of_fn hfn (by decide)) (by decide +kernel)
  -- AGET: FN of 2 and more
  · exact illegal_of_bits (P := fun k => k.op = 0x36) (e := 0xE) hop (and_ne_zero_of_fn hfn (by decide))
      (by decide +kernel)
  -- the KOP group: FN of 7 and more
  · exact illegal_of_key (P := fun k => k.op = 0x3E ∧ 7 ≤ k.fn) ⟨hop, rowKey_fn hop ▸ hfn⟩ (by decide +kernel)
  -- CFGW: a slot of 12 and more
  · refine illegal_of_rows fun r hr hw => ⟨.cfgwSlot, ?_⟩
    rw [build_eq_cfgwOf r hr (rowKey_of_fits hr hw ▸ hop), cfgwOf, slotOf_eq_none hslot]

end Sys2Proof

namespace Sys2Proof.Machine

/-! ### Steps by the next event (R66, R281, R320, R340) -/

section
variable {s : State} {c : InFlight}

theorem step_of_nil (h : s.events = []) : step s = finish s := by rw [step, h]

theorem step_of_cons {e : Event} {rest : List Event} (h : s.events = e :: rest) :
    step s = handle e { s with events := rest } := by rw [step, h]

theorem finish_of_inflight (h : s.inflight = some c) : finish s = runWord c.word s := by rw [finish, h]

theorem finish_of_idle (h : s.inflight = none) : finish s = .next s := by rw [finish, h]

theorem passTime_of_done (h : s.inflight = some c) (hz : c.left = 0) : passTime s = runWord c.word s := by
  simp only [passTime, h, hz, if_true]

theorem passTime_of_left (h : s.inflight = some c) (hz : c.left ≠ 0) :
    passTime s = .next { s with inflight := some { c with left := c.left - 1 } } := by
  simp only [passTime, h, hz, if_false]

theorem passTime_of_idle (h : s.inflight = none) : passTime s = .next s := by rw [passTime, h]

end

/-! ### The completion of an illegal word (R86, R282; log entry 6) -/

/-- The ILLEGAL error and DONE, or DONE alone where an error stands. -/
def State.completeIllegal (s : State) (w : Word) : State :=
  if s.err then { s with done := true, inflight := none }
  else { s with err := true, errCode := .illegal, errCmd := w, done := true, inflight := none }

theorem runWord_of_illegal {w : Word} {why : Reject} (h : decode w = .illegal why) (s : State) :
    runWord w s = .next (s.completeIllegal w) := by
  rw [runWord, h]
  exact congrArg Host.Outcome.next (apply_ite State.retire ..)

section
variable {s : State} {c : InFlight} {why : Reject} (hc : s.inflight = some c) (hd : decode c.word = .illegal why)
include hc hd

theorem finish_of_illegal : finish s = .next (s.completeIllegal c.word) :=
  (finish_of_inflight hc).trans (runWord_of_illegal hd s)

theorem passTime_of_illegal (hz : c.left = 0) : passTime s = .next (s.completeIllegal c.word) :=
  (passTime_of_done hc hz).trans (runWord_of_illegal hd s)

end

/-- Settles O7: the completion of an illegal word, and the other steps by the next event. -/
theorem stepHandlesOtherEvents : Obligations.StepHandlesOtherEvents := by
  refine ⟨fun s c why hc hd => ?_, fun s rest => ⟨fun a he => step_of_cons he, fun he => step_of_cons he,
    fun c he hc hz => (step_of_cons he).trans (passTime_of_left hc hz), fun hi he => ?_,
    fun hi he => (step_of_nil he).trans (finish_of_idle hi)⟩⟩
  · exact ⟨fun he => (step_of_nil he).trans (finish_of_illegal hc hd),
      fun _ he => (step_of_cons he).trans (finish_of_illegal hc hd),
      fun _ he hz => (step_of_cons he).trans (passTime_of_illegal hc hd hz)⟩
  · obtain he | he := he
    · exact (step_of_cons he).trans (passTime_of_idle hi)
    · exact (step_of_cons he).trans (finish_of_idle hi)

end Sys2Proof.Machine

/-! ### Element commands under a locked configuration (40_field_scalar.md)

Each meaning is the command wrapper around a rule, so one lemma for each shape of command completes it, and the rules of the
two domains share one lemma over `Dom`. -/

namespace Sys2Proof.Machine

section
variable {i : Instr} {s t : State}

/-- A command of format R completes as its rule says. -/
theorem command_of_register {rule : State → State} (hs : shapeOf i = .register) (hl : s.locked = true)
    (ht : (rule s).complete = t) : command i s (fun s => .ok (rule s)) = .next t :=
  ht ▸ command_of_pass (by rw [hs, checks_register_eq_none]; exact hl) rfl

theorem eq_of_command_register {rule : State → State} (hs : shapeOf i = .register) (hl : s.locked = true)
    (h : command i s (fun s => .ok (rule s)) = .next t) : t = (rule s).complete :=
  Host.Outcome.next.inj (h.symm.trans (command_of_register hs hl rfl))

theorem command_of_element {rule : State → Except Fault State} {u : State} {off : Nat}
    (hs : shapeOf i = .element off s.cfg.eb) (hl : s.locked = true) (hb : off + s.cfg.eb ≤ Config.bufSize)
    (hu : rule s = .ok u) (ht : u.complete = t) : command i s rule = .next t :=
  ht ▸ command_of_pass (by rw [hs, checks_element_eq_none]; exact ⟨hl, hb, rfl⟩) hu

theorem command_of_wide {rule : State → Except Fault State} {u : State} {off len : Nat}
    (hs : shapeOf i = .wide off len) (hl : s.locked = true) (hb : off + len ≤ Config.bufSize) (h1 : 1 ≤ len)
    (h2 : len ≤ 2 * s.cfg.eb) (hu : rule s = .ok u) (ht : u.complete = t) : command i s rule = .next t :=
  ht ▸ command_of_pass (by rw [hs, checks_wide_eq_none]; exact ⟨hl, hb, h1, h2⟩) hu

theorem elem_complete (d : Dom) (j : EReg) : s.complete.elem d j = s.elem d j := by cases d <;> rfl

theorem elem_setChoice (k : KReg) (b : Bool) (d : Dom) (j : EReg) : (s.setChoice k b).elem d j = s.elem d j := by
  cases d <;> rfl

end

/-! ### Sums, products and differences (R112 to R116) -/

/-- Settles O32: each rule is the operation it is named after. -/
theorem sumProductResults : Obligations.SumProductResults := by
  intro s rd ra rb hl
  unfold exec
  exact ⟨command_of_register rfl hl rfl, command_of_register rfl hl rfl, command_of_register rfl hl rfl,
    command_of_register rfl hl rfl, command_of_register rfl hl rfl, command_of_register rfl hl rfl⟩

theorem subMod_eq_toNat {m : Nat} (h : 0 < m) (u v : Nat) : subMod m u v = (((u : Int) - v) % m).toNat := by
  rw [← subMod_eq_int h, Int.toNat_natCast]

theorem negMod_eq_toNat {m : Nat} (h : 0 < m) (v : Nat) : negMod m v = ((-(v : Int)) % m).toNat := by
  rw [negMod, subMod_eq_toNat h, Nat.cast_zero, zero_sub]

/-- Settles O33, by what `subMod` is as an integer under a positive modulus. -/
theorem differenceResults : Obligations.DifferenceResults := by
  intro s rd ra rb hi hl
  have sub (d : Dom) := congrArg (fun v => (s.setElem d rd v).complete)
    (subMod_eq_toNat (hi.modulus_pos hl d) (s.elem d ra) (s.elem d rb))
  have neg (d : Dom) := congrArg (fun v => (s.setElem d rd v).complete)
    (negMod_eq_toNat (hi.modulus_pos hl d) (s.elem d ra))
  unfold exec
  exact ⟨command_of_register rfl hl (sub .field), command_of_register rfl hl (sub .scalar),
    command_of_register rfl hl (neg .field), command_of_register rfl hl (neg .scalar)⟩

/-! ### Copies, selections, constants and predicates (R120 to R126) -/

theorem select_eq (s : State) (d : Dom) (rd ra rb : EReg) (ks : KReg) :
    s.select d rd ra rb ks = s.setElem d rd (s.elem d (if s.choice ks then rb else ra)) := by
  rw [State.select, apply_ite (s.elem d)]

/-- Settles O37: each rule is one register write. -/
theorem elementMoves : Obligations.ElementMoves := by
  intro s rd ra rb ks hl
  have sel (d : Dom) := congrArg State.complete (select_eq s d rd ra rb ks)
  unfold exec
  exact ⟨command_of_register rfl hl rfl, command_of_register rfl hl rfl, command_of_register rfl hl (sel .field),
    command_of_register rfl hl (sel .scalar), command_of_register rfl hl rfl, command_of_register rfl hl rfl,
    command_of_register rfl hl rfl, command_of_register rfl hl rfl, command_of_register rfl hl rfl,
    command_of_register rfl hl rfl⟩

/-- Settles O38: each rule writes one choice bit. -/
theorem elementPredicates : Obligations.ElementPredicates := by
  intro s kd ra rb hl
  unfold exec
  exact ⟨command_of_register rfl hl rfl, command_of_register rfl hl rfl, command_of_register rfl hl rfl,
    command_of_register rfl hl rfl, command_of_register rfl hl rfl, command_of_register rfl hl rfl,
    command_of_register rfl hl rfl⟩

/-! ### The negative of a nonzero value (R114, R123, R125) -/

theorem negMod_of_pos {m x : Nat} (h0 : 0 < x) (hx : x < m) : negMod m x = m - x := by
  rw [negMod, subMod, Nat.mod_eq_of_lt hx, zero_add, Nat.mod_eq_of_lt (by omega)]

theorem isHigh_negMod {m x : Nat} (hm : m % 2 = 1) (h0 : 0 < x) (hx : x < m) :
    isHigh m (negMod m x) = !isHigh m x := by
  rw [negMod_of_pos h0 hx, isHigh, isHigh, ← decide_not, decide_eq_decide]
  omega

theorem isOdd_negMod {m x : Nat} (hm : m % 2 = 1) (h0 : 0 < x) (hx : x < m) : isOdd (negMod m x) = !isOdd x := by
  rw [negMod_of_pos h0 hx, isOdd, isOdd, beq_eq_decide, beq_eq_decide, ← decide_not, decide_eq_decide]
  omega

theorem Inv.modulus_legal {s : State} (hi : Inv s) (hl : s.locked = true) (d : Dom) :
    s.modulus d % 2 = 1 ∧ 2 ^ (s.cfg.l - 1) ≤ s.modulus d ∧ s.modulus d < 2 ^ s.cfg.l := by
  obtain ⟨-, -, hp, hn, -⟩ := cfgChecks_spec (hi.legalCfg hl)
  cases d with
  | field => exact legalModulus_spec hp
  | scalar => exact legalModulus_spec hn

theorem Inv.modulus_odd {s : State} (hi : Inv s) (hl : s.locked = true) (d : Dom) : s.modulus d % 2 = 1 :=
  (hi.modulus_legal hl d).1

theorem choice_of_command {i : Instr} {s t : State} {kd : KReg} {test : State → Bool} (hs : shapeOf i = .register)
    (hl : s.locked = true) (h : command i s (fun s => .ok (s.setChoice kd (test s))) = .next t) :
    t.choice kd = test s := by
  obtain rfl := eq_of_command_register hs hl h
  exact (choice_setChoice s kd kd _).trans (if_pos rfl)

/-- A test that negation flips gives, of the negated register, the opposite choice bit. -/
theorem choice_of_negated {f : Nat → Nat → Bool}
    (hf : ∀ {m x : Nat}, m % 2 = 1 → 0 < x → x < m → f m (negMod m x) = !f m x) {s t u v : State} {d : Dom}
    {rd ra : EReg} {kd : KReg} {i j k : Instr} (hi : Inv s) (hl : s.locked = true) (hsi : shapeOf i = .register)
    (hsj : shapeOf j = .register) (hsk : shapeOf k = .register) (h0 : s.elem d ra ≠ 0)
    (ht : command i s (fun s => .ok (s.setChoice kd (f (s.modulus d) (s.elem d ra)))) = .next t)
    (hu : command j s (fun s => .ok (s.negate d rd ra)) = .next u)
    (hv : command k u (fun s => .ok (s.setChoice kd (f (s.modulus d) (s.elem d rd)))) = .next v) :
    v.choice kd = !t.choice kd := by
  obtain rfl := eq_of_command_register hsj hl hu
  have hlu : (s.negate d rd ra).complete.locked = true := by simp [State.negate, hl]
  have hmod : (s.negate d rd ra).complete.modulus d = s.modulus d := by simp [State.negate, State.modulus]
  have helem : (s.negate d rd ra).complete.elem d rd = negMod (s.modulus d) (s.elem d ra) := by
    rw [elem_complete, State.negate, elem_setElem, if_pos rfl]
  rw [choice_of_command hsk hlu hv, choice_of_command hsi hl ht, hmod, helem,
    hf (hi.modulus_odd hl d) (Nat.pos_of_ne_zero h0) (hi.elem_lt hl d ra)]

/-- Settles O39: high half and parity are flipped by the negation of a nonzero value under an odd modulus. -/
theorem negativeFlipsHighAndParity : Obligations.NegativeFlipsHighAndParity := by
  intro s t u v rd ra kd hi hl
  unfold exec
  exact ⟨choice_of_negated (d := .scalar) isHigh_negMod hi hl rfl rfl rfl,
    choice_of_negated (d := .scalar) (f := fun _ => isOdd) isOdd_negMod hi hl rfl rfl rfl,
    choice_of_negated (d := .field) (f := fun _ => isOdd) isOdd_negMod hi hl rfl rfl rfl⟩

end Sys2Proof.Machine

/-! ### Decoding, encoding and wide reduction (R127 to R130) -/

namespace Sys2Proof.Machine

section
variable {s : State} {off : Nat}

theorem decodeElem_of_lt {d : Dom} (rg : EReg) (kd : KReg) (hb : off + s.cfg.eb ≤ Config.bufSize)
    (hv : beValue (s.buf.readBytes off s.cfg.eb) < s.modulus d) :
    s.decodeElem d rg kd off = .ok ((s.setElem d rg (beValue (s.buf.readBytes off s.cfg.eb))).setChoice kd true) := by
  rw [State.decodeElem, memRead_ok hb]
  simp [bind, Except.bind, pure, Except.pure, hv]

theorem decodeElem_of_ge {d : Dom} (rg : EReg) (kd : KReg) (hb : off + s.cfg.eb ≤ Config.bufSize)
    (hv : s.modulus d ≤ beValue (s.buf.readBytes off s.cfg.eb)) :
    s.decodeElem d rg kd off = .ok ((s.setElem d rg 0).setChoice kd false) := by
  rw [State.decodeElem, memRead_ok hb]
  simp [bind, Except.bind, pure, Except.pure, hv.not_gt]

/-- The state after the EB bytes of a register are stored at an offset (R128). -/
def State.storeElem (s : State) (d : Dom) (rg : EReg) (off : Nat) : State :=
  { s with buf := s.buf.writeBytes off (beBytes s.cfg.eb (s.elem d rg)), resLen := BitVec.ofNat 8 s.cfg.eb }

theorem encodeElem_eq (d : Dom) (rg : EReg) (hb : off + s.cfg.eb ≤ Config.bufSize) :
    s.encodeElem d rg off = .ok (s.storeElem d rg off) := by
  rw [State.encodeElem, memWrite_ok (by rwa [length_beBytes])]
  rfl

/-- Every canonical value fits into EB bytes (R7). -/
theorem Inv.elem_lt_pow_eb (hi : Inv s) (hl : s.locked = true) (d : Dom) (i : EReg) : s.elem d i < 256 ^ s.cfg.eb := by
  obtain ⟨-, -, hm⟩ := hi.modulus_legal hl d
  calc s.elem d i < s.modulus d := hi.elem_lt hl d i
    _ < 2 ^ s.cfg.l := hm
    _ ≤ 2 ^ (8 * s.cfg.eb) := Nat.pow_le_pow_right (by decide) (by rw [Cfg.eb]; omega)
    _ = 256 ^ s.cfg.eb := pow_mul 2 8 _

theorem beValue_storeElem (hi : Inv s) (hl : s.locked = true) (d : Dom) (rg : EReg)
    (hb : off + s.cfg.eb ≤ Config.bufSize) :
    beValue ((s.storeElem d rg off).buf.readBytes off s.cfg.eb) = s.elem d rg := by
  have hlen := length_beBytes s.cfg.eb (s.elem d rg)
  have hread := readBytes_writeBytes hi.bufOk off (beBytes s.cfg.eb (s.elem d rg)) (by rwa [hlen])
  rw [hlen] at hread
  rw [State.storeElem, hread, beValue_beBytes _ _ (hi.elem_lt_pow_eb hl d rg)]

theorem read_storeElem_outside (d : Dom) (rg : EReg) {a : Nat} (ha : a < off ∨ off + s.cfg.eb ≤ a) :
    (s.storeElem d rg off).buf.read a = s.buf.read a :=
  memory_read_writeBytes_outside s.buf (by rwa [length_beBytes])

/-- Decoding what was stored writes the value with K = 1. -/
theorem decodeElem_storeElem (hi : Inv s) (hl : s.locked = true) (d : Dom) (rg rd : EReg) (kd : KReg)
    (hb : off + s.cfg.eb ≤ Config.bufSize) :
    (s.storeElem d rg off).complete.decodeElem d rd kd off =
      .ok (((s.storeElem d rg off).complete.setElem d rd (s.elem d rg)).setChoice kd true) := by
  have hv := beValue_storeElem hi hl d rg hb
  have hlt : beValue ((s.storeElem d rg off).buf.readBytes off s.cfg.eb) < s.modulus d := hv ▸ hi.elem_lt hl d rg
  exact hv ▸ decodeElem_of_lt rd kd hb hlt

/-- What decoding writes is there after the command. -/
theorem elem_choice_decoded (s : State) (d : Dom) (rd : EReg) (kd : KReg) (v : Nat) (b : Bool) :
    ((s.setElem d rd v).setChoice kd b).complete.elem d rd = v ∧
      ((s.setElem d rd v).setChoice kd b).complete.choice kd = b :=
  ⟨by rw [elem_complete, elem_setChoice, elem_setElem, if_pos rfl], (choice_setChoice _ kd kd b).trans (if_pos rfl)⟩

end

/-- Settles O40: in both domains, the value is below the modulus or it is not. -/
theorem decodeElementResults : Obligations.DecodeElementResults := by
  intro s rg kd off hl hb
  unfold exec
  exact ⟨fun hv => command_of_element rfl hl hb (decodeElem_of_lt (d := .field) rg kd hb hv) rfl,
    fun hv => command_of_element rfl hl hb (decodeElem_of_ge (d := .field) rg kd hb hv) rfl,
    fun hv => command_of_element rfl hl hb (decodeElem_of_lt (d := .scalar) rg kd hb hv) rfl,
    fun hv => command_of_element rfl hl hb (decodeElem_of_ge (d := .scalar) rg kd hb hv) rfl⟩

/-- Settles O41, by reading back the string that was stored. -/
theorem encodeElementResults : Obligations.EncodeElementResults := by
  intro s rg off hi hl hb
  unfold exec
  refine ⟨⟨(s.storeElem .field rg off).buf, command_of_element rfl hl hb (encodeElem_eq .field rg hb) rfl,
      beValue_storeElem hi hl .field rg hb, fun _ => read_storeElem_outside .field rg⟩,
    ⟨(s.storeElem .scalar rg off).buf, command_of_element rfl hl hb (encodeElem_eq .scalar rg hb) rfl,
      beValue_storeElem hi hl .scalar rg hb, fun _ => read_storeElem_outside .scalar rg⟩,
    fun rd kd => ⟨⟨_, _, command_of_element rfl hl hb (encodeElem_eq .field rg hb) rfl,
      command_of_element (s := (s.storeElem .field rg off).complete) rfl hl hb
        (decodeElem_storeElem hi hl .field rg rd kd hb) rfl, elem_choice_decoded _ .field rd kd _ _⟩,
    ⟨_, _, command_of_element rfl hl hb (encodeElem_eq .scalar rg hb) rfl,
      command_of_element (s := (s.storeElem .scalar rg off).complete) rfl hl hb
        (decodeElem_storeElem hi hl .scalar rg rd kd hb) rfl, elem_choice_decoded _ .scalar rd kd _ _⟩⟩⟩

theorem reduce_eq {s : State} {off len : Nat} (rg : EReg) (hb : off + len ≤ Config.bufSize) :
    s.reduce rg off len = .ok (s.setElem .scalar rg (beValue (s.buf.readBytes off len) % s.cfg.n)) := by
  rw [State.reduce, memRead_ok hb]
  rfl

theorem reduceNonzero_eq {s : State} {off len : Nat} (rg : EReg) (hb : off + len ≤ Config.bufSize) :
    s.reduceNonzero rg off len =
      .ok (s.setElem .scalar rg (beValue (s.buf.readBytes off len) % (s.cfg.n - 1) + 1)) := by
  rw [State.reduceNonzero, memRead_ok hb]
  rfl

/-- Settles O42; the range of SREDNZ is that of a residue modulo N - 1, which is positive. -/
theorem wideReductionResults : Obligations.WideReductionResults := by
  intro s rg off len hl hb h1 h2
  unfold exec
  refine ⟨command_of_wide rfl hl hb h1 h2 (reduce_eq rg hb) rfl,
    command_of_wide rfl hl hb h1 h2 (reduceNonzero_eq rg hb) rfl, fun hi => ⟨Nat.succ_pos _, ?_⟩⟩
  have hn : 5 ≤ s.cfg.n := hi.modulus_ge_five hl .scalar
  have := Nat.mod_lt (beValue (s.buf.readBytes off len)) (show 0 < s.cfg.n - 1 by omega)
  omega

end Sys2Proof.Machine

/-! ### Inverses and square roots (R117, R119, D10, U3) -/

namespace Sys2Proof.Machine

/-- A value that may be drawn, and its validity, to an element register and a choice bit. -/
def State.setExactOrDrawn (s : State) (d : Dom) (rd : EReg) (kd : KReg) (result : Option Nat) : State :=
  let ((v, valid), t) := s.exactOrDrawn (s.modulus d) fun _ => result
  (t.setElem d rd v).setChoice kd valid

section
variable {s : State} (d : Dom) (rd ra : EReg) (kd : KReg)

theorem invert_eq :
    s.invert d rd kd ra = s.setExactOrDrawn d rd kd (invMod (s.modulus d) (s.elem d ra)) := rfl

theorem root_eq :
    s.root d rd kd ra = s.setExactOrDrawn d rd kd (sqrtMod (s.modulus d) (s.elem d ra)) := rfl

variable (hi : Inv s) (hl : s.locked = true)
include hi hl

theorem setExactOrDrawn_of_some (hs : CfgSound s.cfg) (v : Nat) :
    s.setExactOrDrawn d rd kd (some v) = (s.setElem d rd v).setChoice kd true := by
  rw [State.setExactOrDrawn, exactOrDrawn_of_cfgSound hi hl hs]
  rfl

theorem setExactOrDrawn_of_none (hs : CfgSound s.cfg) :
    s.setExactOrDrawn d rd kd none = (s.setElem d rd 0).setChoice kd false := by
  rw [State.setExactOrDrawn, exactOrDrawn_of_cfgSound hi hl hs]
  rfl

/-- Under any configuration the register receives a canonical value, 0 where it is not valid, and nothing but the count of
draws changes besides. -/
theorem setExactOrDrawn_range {result : Option Nat} (he : ∀ v, result = some v → v < s.modulus d) :
    ∃ v b n, v < s.modulus d ∧ (b = false → v = 0) ∧
      s.setExactOrDrawn d rd kd result = (State.setElem { s with draws := n } d rd v).setChoice kd b := by
  obtain ⟨n, hn, -⟩ := exactOrDrawn_frame s (s.modulus d) fun _ => result
  obtain ⟨hlt, h0⟩ := exactOrDrawn_range (hi.modulus_pos hl d) s (exact := fun _ => result) he
  exact ⟨_, _, n, hlt, h0, by simp only [State.setExactOrDrawn, hn]⟩

end

theorem CfgSound.modulus_prime {s : State} (hs : CfgSound s.cfg) (d : Dom) : (s.modulus d).Prime := by
  cases d with
  | field => exact hs.fieldPrime
  | scalar => exact hs.orderPrime

theorem invMod_zero {m : Nat} (hm : 1 < m) : invMod m 0 = none := by
  rw [invMod_eq_none_iff (by omega), Nat.gcd_zero_right]
  omega

/-- A nonzero canonical value has its inverse under a prime modulus. -/
theorem exists_invMod {m a : Nat} (hp : m.Prime) (h0 : a ≠ 0) (hlt : a < m) :
    ∃ v, invMod m a = some v ∧ v < m ∧ a * v % m = 1 := by
  obtain ⟨v, hv⟩ := Option.isSome_iff_exists.1 (invMod_isSome_of_prime hp h0 hlt)
  obtain ⟨hvm, hmul⟩ := invMod_spec hp.pos hv
  exact ⟨v, hv, hvm, by rw [hmul, Nat.mod_eq_of_lt hp.one_lt]⟩

section
variable {s : State} (hi : Inv s) (hl : s.locked = true) (d : Dom) (rd ra : EReg) (kd : KReg)
include hi hl

theorem invert_of_zero (hs : CfgSound s.cfg) (h0 : s.elem d ra = 0) :
    s.invert d rd kd ra = (s.setElem d rd 0).setChoice kd false := by
  rw [invert_eq, h0, invMod_zero (hs.modulus_prime d).one_lt, setExactOrDrawn_of_none d rd kd hi hl hs]

theorem invert_of_ne_zero (hs : CfgSound s.cfg) (h0 : s.elem d ra ≠ 0) :
    ∃ v, v < s.modulus d ∧ s.elem d ra * v % s.modulus d = 1 ∧
      s.invert d rd kd ra = (s.setElem d rd v).setChoice kd true := by
  obtain ⟨v, hv, hlt, hmul⟩ := exists_invMod (hs.modulus_prime d) h0 (hi.elem_lt hl d ra)
  exact ⟨v, hlt, hmul, by rw [invert_eq, hv, setExactOrDrawn_of_some d rd kd hi hl hs]⟩

theorem invert_range :
    ∃ v b n, v < s.modulus d ∧ (b = false → v = 0) ∧
      s.invert d rd kd ra = (State.setElem { s with draws := n } d rd v).setChoice kd b := by
  rw [invert_eq]
  exact setExactOrDrawn_range d rd kd hi hl fun _ h => (invMod_spec (hi.modulus_pos hl d) h).1

end

/-- Settles O35, by whether the operand is 0 and, under any configuration, by the range of what may be drawn. -/
theorem inverseResults : Obligations.InverseResults := by
  intro s rd ra kd hi hl
  unfold exec
  have zero (d : Dom) hs h0 := congrArg State.complete (invert_of_zero hi hl d rd ra kd hs h0)
  refine ⟨fun hs h0 => command_of_register rfl hl (zero .field hs h0), fun hs h0 => ?fieldInverse,
    fun hs h0 => command_of_register rfl hl (zero .scalar hs h0), fun hs h0 => ?scalarInverse, ?fieldRange, ?scalarRange⟩
  case fieldInverse =>
    obtain ⟨v, hlt, hmul, h⟩ := invert_of_ne_zero hi hl .field rd ra kd hs h0
    exact ⟨v, hlt, hmul, command_of_register rfl hl (congrArg State.complete h)⟩
  case scalarInverse =>
    obtain ⟨v, hlt, hmul, h⟩ := invert_of_ne_zero hi hl .scalar rd ra kd hs h0
    exact ⟨v, hlt, hmul, command_of_register rfl hl (congrArg State.complete h)⟩
  case fieldRange =>
    obtain ⟨v, b, n, hlt, hb, h⟩ := invert_range hi hl .field rd ra kd
    exact ⟨v, b, n, hlt, hb, command_of_register rfl hl (congrArg State.complete h)⟩
  case scalarRange =>
    obtain ⟨v, b, n, hlt, hb, h⟩ := invert_range hi hl .scalar rd ra kd
    exact ⟨v, b, n, hlt, hb, command_of_register rfl hl (congrArg State.complete h)⟩

/-! ### The square root of a square (R119) -/

theorem isEvenRoot_iff {m α r : Nat} : isEvenRoot m α r = true ↔ r < m ∧ r % 2 = 0 ∧ r * r % m = α := by
  simp [isEvenRoot, and_assoc]

theorem isEvenRoot_of_searchEvenRoot {m α β fuel r : Nat} (h : searchEvenRoot m α fuel r = some β) :
    isEvenRoot m α β = true := by
  induction fuel generalizing r with
  | zero => simp [searchEvenRoot] at h
  | succ fuel ih =>
    rw [searchEvenRoot] at h
    split_ifs at h with hr
    · exact Option.some.inj h ▸ hr
    · exact ih h

/-- The search finds an even root where there is one ahead of it. -/
theorem exists_searchEvenRoot {m α k fuel r : Nat} (hk : isEvenRoot m α k = true) (hrk : r ≤ k) (hf : k < r + fuel) :
    ∃ β, searchEvenRoot m α fuel r = some β := by
  induction fuel generalizing r with
  | zero => omega
  | succ fuel ih =>
    rw [searchEvenRoot]
    split_ifs with hr
    · exact ⟨r, rfl⟩
    · have hne : r ≠ k := fun h => hr (h ▸ hk)
      exact ih (by omega) (by omega)

/-- Of a root and its negative modulo an odd number, one is even. -/
theorem exists_isEvenRoot {m α r : Nat} (hm : m % 2 = 1) (h : r * r % m = α) : ∃ k, isEvenRoot m α k = true := by
  have hlt : r % m < m := Nat.mod_lt _ (by omega)
  by_cases he : r % m % 2 = 0
  · exact ⟨r % m, isEvenRoot_iff.2 ⟨hlt, he, by rw [← Nat.mul_mod, h]⟩⟩
  · have hneg : (m - r % m) * (m - r % m) ≡ r * r [MOD m] := by
      rw [← ZMod.natCast_eq_natCast_iff, Nat.cast_mul, Nat.cast_sub hlt.le]
      simp
    exact ⟨m - r % m, isEvenRoot_iff.2 ⟨by omega, by omega, Eq.trans hneg h⟩⟩

section
variable {m α r : Nat} (hp : m.Prime)
include hp

/-- Euler's criterion for a nonzero square. -/
theorem powMod_half_of_square (hm : m % 2 = 1) (h : r * r % m = α) (h0 : α ≠ 0) : powMod m α ((m - 1) / 2) = 1 := by
  have := Fact.mk hp
  have hr : (r : ZMod m) ≠ 0 := fun hr => h0 <| by
    rw [← h]; exact Nat.mod_eq_zero_of_dvd (((ZMod.natCast_eq_zero_iff r m).1 hr).mul_right r)
  have hpow : (r * r) ^ ((m - 1) / 2) ≡ 1 [MOD m] := by
    rw [← ZMod.natCast_eq_natCast_iff, ← pow_two, ← pow_mul, show 2 * ((m - 1) / 2) = m - 1 by omega]
    exact_mod_cast ZMod.pow_card_sub_one_eq_one hr
  rw [powMod_eq, ← h, ← Nat.pow_mod, hpow, Nat.mod_eq_of_lt hp.one_lt]

/-- For Mod ≡ 3 (mod 4) the power of R119 is a root of every square. -/
theorem power_root_of_square (h3 : m % 4 = 3) (h : r * r % m = α) :
    powMod m α ((m + 1) / 4) * powMod m α ((m + 1) / 4) % m = α := by
  have := Fact.mk hp
  subst h
  rw [powMod_eq, ← Nat.mul_mod, ← pow_add, show (m + 1) / 4 + (m + 1) / 4 = (m + 1) / 2 by omega, ← Nat.pow_mod]
  change (r * r) ^ ((m + 1) / 2) ≡ r * r [MOD m]
  rw [← ZMod.natCast_eq_natCast_iff, ← pow_two, ← pow_mul, show 2 * ((m + 1) / 2) = m + 1 by omega, Nat.cast_pow,
    Nat.cast_pow, pow_succ, ZMod.pow_card, pow_two]

/-- `evenRoot` finds the even root of every square. -/
theorem exists_evenRoot (hm : m % 2 = 1) (h : r * r % m = α) : ∃ β, evenRoot m α = some β ∧ β % 2 = 0 := by
  obtain ⟨k, hk⟩ := exists_isEvenRoot hm h
  have hkm : k < 0 + m := by rw [zero_add]; exact (isEvenRoot_iff.1 hk).1
  obtain ⟨β, hβ⟩ := exists_searchEvenRoot hk (Nat.zero_le k) hkm
  simp only [evenRoot]
  generalize (if rootCandidate m α % 2 = 0 then rootCandidate m α else m - rootCandidate m α) = c
  split_ifs with hc hn
  · exact ⟨c, rfl, (isEvenRoot_iff.1 hc).2.1⟩
  · exact absurd (powMod_half_of_square hp hm h hn.1) hn.2
  · exact ⟨β, hβ, (isEvenRoot_iff.1 (isEvenRoot_of_searchEvenRoot hβ)).2.1⟩

/-- The root of R119 for every square modulo an odd prime. -/
theorem sqrtMod_of_square (hm : m % 2 = 1) (h : r * r % m = α) :
    ∃ β, sqrtMod m α = some β ∧ (m % 4 = 3 → β = α ^ ((m + 1) / 4) % m) ∧ (m % 4 = 1 → β % 2 = 0) := by
  by_cases h3 : m % 4 = 3
  · refine ⟨powMod m α ((m + 1) / 4), ?_, fun _ => powMod_eq _ _ _, by omega⟩
    simp only [sqrtMod, h3, if_true, power_root_of_square hp h3 h]
  · obtain ⟨β, hβ, heven⟩ := exists_evenRoot hp hm h
    exact ⟨β, by rw [sqrtMod, if_neg h3, hβ], fun h => absurd h h3, fun _ => heven⟩

end

theorem sqrtMod_of_nonsquare {m α : Nat} (hm : 0 < m) (h : ∀ r, r * r % m ≠ α) : sqrtMod m α = none :=
  Option.eq_none_iff_forall_ne_some.2 fun β hβ => h β (sqrtMod_spec hm hβ).2

section
variable {s : State} (hi : Inv s) (hl : s.locked = true) (d : Dom) (rd ra : EReg) (kd : KReg)
include hi hl

theorem root_of_square (hs : CfgSound s.cfg) (h : ∃ r, r * r % s.modulus d = s.elem d ra) :
    ∃ β, β < s.modulus d ∧ β * β % s.modulus d = s.elem d ra ∧
      (s.modulus d % 4 = 3 → β = s.elem d ra ^ ((s.modulus d + 1) / 4) % s.modulus d) ∧
      (s.modulus d % 4 = 1 → β % 2 = 0) ∧ s.root d rd kd ra = (s.setElem d rd β).setChoice kd true := by
  obtain ⟨r, hr⟩ := h
  obtain ⟨β, hβ, h3, h1⟩ := sqrtMod_of_square (hs.modulus_prime d) (hi.modulus_odd hl d) hr
  obtain ⟨hlt, hsq⟩ := sqrtMod_spec (hi.modulus_pos hl d) hβ
  exact ⟨β, hlt, hsq, h3, h1, by rw [root_eq, hβ, setExactOrDrawn_of_some d rd kd hi hl hs]⟩

theorem root_of_nonsquare (hs : CfgSound s.cfg) (h : ∀ r, r * r % s.modulus d ≠ s.elem d ra) :
    s.root d rd kd ra = (s.setElem d rd 0).setChoice kd false := by
  rw [root_eq, sqrtMod_of_nonsquare (hi.modulus_pos hl d) h, setExactOrDrawn_of_none d rd kd hi hl hs]

theorem root_range :
    ∃ v b n, v < s.modulus d ∧ (b = false → v = 0) ∧
      s.root d rd kd ra = (State.setElem { s with draws := n } d rd v).setChoice kd b := by
  rw [root_eq]
  exact setExactOrDrawn_range d rd kd hi hl fun _ h => (sqrtMod_spec (hi.modulus_pos hl d) h).1

end

/-- Settles O36, by whether the operand is a square and, under any configuration, by the range of what may be drawn. -/
theorem squareRootResults : Obligations.SquareRootResults := by
  intro s rd ra kd hi hl
  unfold exec
  have nonsquare (d : Dom) hs h := congrArg State.complete (root_of_nonsquare hi hl d rd ra kd hs h)
  refine ⟨fun hs h => ?fieldRoot, fun hs h => command_of_register rfl hl (nonsquare .field hs h),
    fun hs h => ?scalarRoot, fun hs h => command_of_register rfl hl (nonsquare .scalar hs h), ?fieldRange, ?scalarRange⟩
  case fieldRoot =>
    obtain ⟨β, hlt, hsq, h3, h1, h⟩ := root_of_square hi hl .field rd ra kd hs h
    exact ⟨β, hlt, hsq, h3, h1, command_of_register rfl hl (congrArg State.complete h)⟩
  case scalarRoot =>
    obtain ⟨β, hlt, hsq, h3, h1, h⟩ := root_of_square hi hl .scalar rd ra kd hs h
    exact ⟨β, hlt, hsq, h3, h1, command_of_register rfl hl (congrArg State.complete h)⟩
  case fieldRange =>
    obtain ⟨v, b, n, hlt, hb, h⟩ := root_range hi hl .field rd ra kd
    exact ⟨v, b, n, hlt, hb, command_of_register rfl hl (congrArg State.complete h)⟩
  case scalarRange =>
    obtain ⟨v, b, n, hlt, hb, h⟩ := root_range hi hl .scalar rd ra kd
    exact ⟨v, b, n, hlt, hb, command_of_register rfl hl (congrArg State.complete h)⟩

end Sys2Proof.Machine

/-! ### Affine commands under a locked configuration (41_affine.md) -/

namespace Sys2Proof.Machine

/-- Negating the second coordinate is integer negation modulo a positive P (R173). -/
theorem Affine.neg_eq {p : Nat} (hp : 0 < p) (a : Affine) : a.neg p = ⟨a.x, ((-(a.y : Int)) % p).toNat, a.inf⟩ := by
  rw [Affine.neg, negMod_eq_toNat hp]

/-- Settles O43: each rule is one register write. -/
theorem affineMoves : Obligations.AffineMoves := by
  intro s rd ra rb r ks hi hl
  have neg := congrArg (fun a => (s.setAffine rd a).complete) (Affine.neg_eq (hi.p_pos hl) (s.affine ra))
  have sel := congrArg (fun a => (s.setAffine rd a).complete) (apply_ite s.affine (s.choice ks = true) rb ra).symm
  unfold exec
  exact ⟨command_of_register rfl hl rfl, command_of_register rfl hl rfl, command_of_register rfl hl neg,
    command_of_register rfl hl sel, command_of_register rfl hl rfl, command_of_register rfl hl rfl⟩

/-- The core's test is the curve equation (R170). -/
theorem onCurve_eq_decide (c : Cfg) (x y : Nat) :
    onCurve c x y = decide (y ^ 2 % c.p = (x ^ 3 + c.a * x + c.b) % c.p) := by
  rw [onCurve, curveRhs, beq_eq_decide, pow_two, pow_three']

/-- AONC's bit is the identity or the curve equation (R174). -/
theorem inf_or_onCurve_eq_decide (c : Cfg) (a : Affine) :
    (a.inf || onCurve c a.x a.y) =
      decide (a.inf = true ∨ a.y ^ 2 % c.p = (a.x ^ 3 + c.a * a.x + c.b) % c.p) := by
  rw [onCurve_eq_decide, Bool.decide_or, Bool.decide_eq_true]

section
variable {s : State} {x y : Nat} (rd : PReg) (kd : KReg)

theorem buildPoint_of_onCurve (h : onCurve s.cfg x y = true) :
    s.buildPoint rd kd x y = (s.setAffine rd ⟨x, y, false⟩).setChoice kd true := by
  simp only [State.buildPoint, maskPoint, h, if_true]

theorem buildPoint_of_not_onCurve (h : onCurve s.cfg x y = false) :
    s.buildPoint rd kd x y = (s.setAffine rd Affine.identity).setChoice kd false := by
  simp only [State.buildPoint, maskPoint, h, Bool.false_eq_true, if_false]

end

/-- Settles O44, by what the core's test says of the curve equation; ASET by whether its pair satisfies it. -/
theorem affineChecks : Obligations.AffineChecks := by
  intro s rd ra kd fa fb hl
  have onc := congrArg (fun b => (s.setChoice kd b).complete) (inf_or_onCurve_eq_decide s.cfg (s.affine ra))
  unfold exec
  refine ⟨command_of_register rfl hl onc, command_of_register rfl hl rfl, fun h => ?onCurve, fun h => ?offCurve⟩
  case onCurve =>
    have hc := (onCurve_eq_decide s.cfg _ _).trans (decide_eq_true h)
    exact command_of_register rfl hl (congrArg State.complete (buildPoint_of_onCurve rd kd hc))
  case offCurve =>
    have hc := (onCurve_eq_decide s.cfg _ _).trans (decide_eq_false h)
    exact command_of_register rfl hl (congrArg State.complete (buildPoint_of_not_onCurve rd kd hc))

end Sys2Proof.Machine

/-! ### The point formulas over GF(P), whichever variant is selected (R192) -/

namespace Sys2Proof.Machine

/-- Canonical values are equal where their residue classes are. -/
theorem natCast_inj_of_lt {p u v : Nat} (hu : u < p) (hv : v < p) : (u : ZMod p) = v ↔ u = v := by
  rw [ZMod.natCast_eq_natCast_iff', Nat.mod_eq_of_lt hu, Nat.mod_eq_of_lt hv]

theorem natCast_eq_zero_of_lt {p u : Nat} (hu : u < p) : (u : ZMod p) = 0 ↔ u = 0 := by
  rw [← Nat.cast_zero, natCast_inj_of_lt hu (Nat.zero_lt_of_lt hu)]

/-- A canonical value is the least non-negative residue of every integer of its class. -/
theorem eq_toNat_emod {p v : Nat} {e : Int} (hv : v < p) (h : (v : ZMod p) = (e : ZMod p)) : v = (e % p).toNat := by
  rw [← Int.cast_natCast, ZMod.intCast_eq_intCast_iff', ← Int.natCast_mod, Nat.mod_eq_of_lt hv] at h
  rw [← h, Int.toNat_natCast]

/-- The triple holds the canonical residues of three values of GF(P). -/
def Proj.Holds (p : Nat) (q : Proj) (x y z : ZMod p) : Prop :=
  ProjOk true p q ∧ (q.x : ZMod p) = x ∧ (q.y : ZMod p) = y ∧ (q.z : ZMod p) = z

/-- A canonical triple holds the classes of its own coordinates. -/
theorem Proj.holds_self {p : Nat} {q : Proj} (h : ProjOk true p q) : q.Holds p q.x q.y q.z := ⟨h, rfl, rfl, rfl⟩

theorem Proj.Holds.unique {p : Nat} {q q' : Proj} {x y z : ZMod p} (h : q.Holds p x y z) (h' : q'.Holds p x y z) :
    q = q' := by
  obtain ⟨⟨hx, hy, hz⟩, ex, ey, ez⟩ := h
  obtain ⟨⟨hx', hy', hz'⟩, ex', ey', ez'⟩ := h'
  rw [Proj.mk.injEq, ← natCast_inj_of_lt hx hx', ← natCast_inj_of_lt hy hy', ← natCast_inj_of_lt hz hz']
  exact ⟨ex.trans ex'.symm, ey.trans ey'.symm, ez.trans ez'.symm⟩

theorem Proj.Holds.congr {p : Nat} {q : Proj} {x y z x' y' z' : ZMod p} (h : q.Holds p x y z) (hx : x = x')
    (hy : y = y') (hz : z = z') : q.Holds p x' y' z' := hx ▸ hy ▸ hz ▸ h

/-- A triple that holds the classes of three integers is their least non-negative residues. -/
theorem Proj.Holds.eq_residues {p : Nat} {q : Proj} {x y z : Int} (h : q.Holds p x y z) :
    q = ⟨(x % p).toNat, (y % p).toNat, (z % p).toNat⟩ := by
  obtain ⟨⟨hx, hy, hz⟩, ex, ey, ez⟩ := h
  rw [← eq_toNat_emod hx ex, ← eq_toNat_emod hy ey, ← eq_toNat_emod hz ez]

/-- The formulas for a = -3 are selected only where A is -3 modulo P. -/
def Cfg.VariantOk (c : Cfg) : Prop := c.aEqM3 = true → (c.a : ZMod c.p) = -3

theorem cast_sub_three {p : Nat} (h : 3 ≤ p) : ((p - 3 : Nat) : ZMod p) = -3 := by
  rw [Nat.cast_sub h, ZMod.natCast_self, zero_sub, Nat.cast_ofNat]

/-- Check 6 of R261 is what the selection rests on. -/
theorem variantOk_of_legal {prm : Params} {c : Cfg} (h : cfgChecks prm c = true) : c.VariantOk := by
  obtain ⟨-, -, -, -, -, hflags, -⟩ := cfgChecks_spec h
  intro hsel
  rcases hflags with h0 | ha
  · simp [Cfg.aEqM3, h0] at hsel
  · have hp := (modulus_ge h).1
    rw [ha, cast_sub_three (by omega)]

theorem cast_b3 (c : Cfg) : (c.b3 : ZMod c.p) = 3 * c.b := by
  rw [Cfg.b3, ZMod.natCast_mod, Nat.cast_mul, Nat.cast_ofNat]

section
variable {c : Cfg} (hp : 0 < c.p) (hv : c.VariantOk)
include hp hv

theorem pointAdd_holds (q1 q2 : Proj) :
    (pointAdd c q1 q2).Holds c.p (sumX (c.a : ZMod c.p) c.b q1.x q1.y q1.z q2.x q2.y q2.z)
      (sumY (c.a : ZMod c.p) c.b q1.x q1.y q1.z q2.x q2.y q2.z)
      (sumZ (c.a : ZMod c.p) c.b q1.x q1.y q1.z q2.x q2.y q2.z) := by
  refine ⟨projOk_pointAdd hp q1 q2, ?_⟩
  unfold pointAdd
  split_ifs with h
  · rw [hv h]; exact alg4_cast hp c.b q1 q2
  · exact alg1_cast hp c.a c.b c.b3 q1 q2 (cast_b3 c)

theorem pointAddMixed_holds (q : Proj) (x y : Nat) :
    (pointAddMixed c q x y).Holds c.p (sumX (c.a : ZMod c.p) c.b q.x q.y q.z x y 1)
      (sumY (c.a : ZMod c.p) c.b q.x q.y q.z x y 1) (sumZ (c.a : ZMod c.p) c.b q.x q.y q.z x y 1) := by
  refine ⟨projOk_pointAddMixed hp q x y, ?_⟩
  unfold pointAddMixed
  split_ifs with h
  · rw [hv h]; exact alg5_cast hp c.b q x y
  · exact alg2_cast hp c.a c.b c.b3 q (cast_b3 c) x y

theorem pointDouble_holds (q : Proj) :
    (pointDouble c q).Holds c.p (dblX (c.a : ZMod c.p) c.b q.x q.y q.z) (dblY (c.a : ZMod c.p) c.b q.x q.y q.z)
      (dblZ (q.y : ZMod c.p) q.z) := by
  refine ⟨projOk_pointDouble hp q, ?_⟩
  unfold pointDouble
  split_ifs with h
  · rw [hv h]; exact alg6_cast hp c.b q
  · exact alg3_cast hp c.a c.b c.b3 q (cast_b3 c)

/-- The mixed formula is the complete one with Z2 = 1 (R194, R197). -/
theorem pointAddMixed_eq_pointAdd (q : Proj) (x y : Nat) : pointAddMixed c q x y = pointAdd c q ⟨x, y, 1⟩ :=
  (pointAddMixed_holds hp hv q x y).unique (by simpa using pointAdd_holds hp hv q ⟨x, y, 1⟩)

/-- The identity is its own double and sum, under every legal configuration. -/
theorem pointDouble_identity (h1 : 1 < c.p) : pointDouble c Proj.identity = Proj.identity :=
  (pointDouble_holds hp hv _).unique
    ((Proj.holds_self (projOk_identity hp h1)).congr (by simp [Proj.identity, dblX]) (by simp [Proj.identity, dblY])
      (by simp [Proj.identity, dblZ]))

theorem pointAdd_identity (h1 : 1 < c.p) : pointAdd c Proj.identity Proj.identity = Proj.identity :=
  (pointAdd_holds hp hv _ _).unique
    ((Proj.holds_self (projOk_identity hp h1)).congr (by simp [Proj.identity, sumX]) (by simp [Proj.identity, sumY])
      (by simp [Proj.identity, sumZ]))

end

/-- The formulas depend on the configuration through P, A and B alone: two selections that are both right agree
(R192). -/
theorem formulas_eq_of_variants {c : Cfg} {m m' : Nat} (hp : 0 < c.p) (hv : Cfg.VariantOk { c with flags := m })
    (hv' : Cfg.VariantOk { c with flags := m' }) :
    pointAdd { c with flags := m } = pointAdd { c with flags := m' } ∧
    pointAddMixed { c with flags := m } = pointAddMixed { c with flags := m' } ∧
    pointDouble { c with flags := m } = pointDouble { c with flags := m' } :=
  ⟨funext₂ fun q1 q2 => (pointAdd_holds (c := { c with flags := m }) hp hv q1 q2).unique
      (pointAdd_holds (c := { c with flags := m' }) hp hv' q1 q2),
    funext₃ fun q x y => (pointAddMixed_holds (c := { c with flags := m }) hp hv q x y).unique
      (pointAddMixed_holds (c := { c with flags := m' }) hp hv' q x y),
    funext fun q => (pointDouble_holds (c := { c with flags := m }) hp hv q).unique
      (pointDouble_holds (c := { c with flags := m' }) hp hv' q)⟩

/-! ### The window multiplication (R204) -/

theorem length_multiplesTable (c : Cfg) (base : Proj) (n : Nat) : (multiplesTable c base n).length = n + 2 := by
  induction n with
  | zero => rfl
  | succ n ih => rw [multiplesTable, List.length_append, ih]; rfl

/-- The scan picks entry d, for every nibble d. -/
theorem selectEntry_eq (t : List Proj) {d : Nat} (hd : d < 16) : selectEntry t d = t.getD d Proj.identity := by
  have scan (n : Nat) : (List.range n).foldl (fun e j => if j = d then t.getD j Proj.identity else e) ⟨0, 0, 0⟩ =
      if d < n then t.getD d Proj.identity else ⟨0, 0, 0⟩ := by
    induction n with
    | zero => rfl
    | succ n ih =>
      rw [List.range_succ, List.foldl_append, ih]
      simp only [List.foldl_cons, List.foldl_nil]
      by_cases h : n = d
      · rw [if_pos h, if_pos (by omega), h]
      · rw [if_neg h]
        exact if_congr (by omega) rfl rfl
  exact (scan 16).trans (if_pos hd)

section
variable {M : Type} [AddCommMonoid M] {R : Proj → M → Prop} {c : Cfg}
  (hadd : ∀ {q1 q2 : Proj} {B C : M}, R q1 B → R q2 C → R (pointAdd c q1 q2) (B + C))
  (hdbl : ∀ {q : Proj} {B : M}, R q B → R (pointDouble c q) (B + B))
  (h0 : R Proj.identity 0)
  {base : Proj} {A : M} (hA : R base A)
include hadd hdbl h0 hA

/-- Entry i of the table stands for i times the base, where the formulas stand for addition. -/
theorem multiplesTable_rel (n : Nat) {i : Nat} (hi : i < n + 2) :
    R ((multiplesTable c base n).getD i Proj.identity) (i • A) := by
  induction n generalizing i with
  | zero =>
    obtain rfl | rfl : i = 0 ∨ i = 1 := by omega
    · simpa [multiplesTable] using h0
    · simpa [multiplesTable] using hA
  | succ n ih =>
    rw [multiplesTable]
    obtain hlt | rfl : i < n + 2 ∨ i = n + 2 := by omega
    · rw [List.getD_append _ _ _ _ (by rwa [length_multiplesTable])]
      exact ih hlt
    · rw [List.getD_append_right _ _ _ _ (length_multiplesTable c base n).le, length_multiplesTable, Nat.sub_self,
        List.getD_cons_zero, tableEntry]
      split_ifs with heven
      · have h := hdbl (ih (i := (n + 2) / 2) (by omega))
        rwa [← add_nsmul, show (n + 2) / 2 + (n + 2) / 2 = n + 2 by omega] at h
      · exact succ_nsmul A (n + 1) ▸ hadd (ih (i := n + 1) (by omega)) hA

/-- The loop shifts the multiple by one nibble for each pass and adds the low nibbles of k. -/
theorem windowLoop_rel (k i : Nat) {q : Proj} {m : Nat} (hq : R q (m • A)) :
    R (windowLoop c (windowTable c base) k i q) ((m * 16 ^ i + k % 16 ^ i) • A) := by
  induction i generalizing q m with
  | zero => simpa [windowLoop, Nat.mod_one] using hq
  | succ i ih =>
    have hnib : nibble k i < 16 := Nat.mod_lt _ (by decide)
    have h16 : R (pointAdd c (pointDouble c (pointDouble c (pointDouble c (pointDouble c q))))
        ((multiplesTable c base 14).getD (nibble k i) Proj.identity)) ((16 * m + nibble k i) • A) := by
      convert hadd (hdbl (hdbl (hdbl (hdbl hq)))) (multiplesTable_rel hadd hdbl h0 hA 14 hnib) using 1
      module
    have hk : m * 16 ^ (i + 1) + k % 16 ^ (i + 1) = (16 * m + nibble k i) * 16 ^ i + k % 16 ^ i := by
      rw [pow_succ, Nat.mod_mul, nibble]
      ring
    rw [windowLoop, selectEntry_eq _ hnib, hk]
    exact ih h16

/-- The window multiplication stands for the multiple by k, for every k of at most `nib` nibbles. -/
theorem scalarMul_rel {nib k : Nat} (hk : k < 16 ^ nib) : R (scalarMul c nib k base) (k • A) := by
  have h := windowLoop_rel hadd hdbl h0 hA k nib (m := 0) (by rwa [zero_nsmul])
  rwa [Nat.zero_mul, Nat.zero_add, Nat.mod_eq_of_lt hk] at h

end

/-- The window multiplication of the identity is the identity, under every legal configuration. -/
theorem scalarMul_identity {c : Cfg} (hp : 0 < c.p) (hv : c.VariantOk) (h1 : 1 < c.p) {nib k : Nat}
    (hk : k < 16 ^ nib) : scalarMul c nib k Proj.identity = Proj.identity :=
  scalarMul_rel (M := Nat) (R := fun q _ => q = Proj.identity) (A := 0)
    (fun h h' => by rw [h, h', pointAdd_identity hp hv h1]) (fun h => by rw [h, pointDouble_identity hp hv h1]) rfl
    rfl hk

/-- The multiplication uses the configuration only through the two formulas. -/
theorem scalarMul_congr {c c' : Cfg} (hadd : pointAdd c = pointAdd c') (hdbl : pointDouble c = pointDouble c')
    (nib k : Nat) (base : Proj) : scalarMul c nib k base = scalarMul c' nib k base := by
  have table (n : Nat) : multiplesTable c base n = multiplesTable c' base n := by
    induction n with
    | zero => rfl
    | succ n ih => simp only [multiplesTable, tableEntry, ih, hadd, hdbl]
  have loop (t : List Proj) (i : Nat) (q : Proj) : windowLoop c t k i q = windowLoop c' t k i q := by
    induction i generalizing q with
    | zero => rfl
    | succ i ih => simp only [windowLoop, hadd, hdbl, ih]
  rw [scalarMul, scalarMul, windowTable, windowTable, table, loop]

end Sys2Proof.Machine

/-! ### The points that triples denote (R190, R199)

`Represents c q A`: the canonical triple q is a nonzero multiple of the homogeneous coordinates of the point A. Over a
prime field this is what validity and denotation say together, and the formulas are homogeneous, so that the group law
is one fact about the coordinates of points (`sum_coords`). -/

namespace Sys2Proof.Machine

section
variable {c : Cfg}

/-- X of a point: that of (0, 1, 0) for the identity and of (x, y, 1) otherwise. -/
def pointX : (curveOf c).Point → ZMod c.p
  | .zero => 0
  | .some x _ _ => x

/-- Y of a point, likewise. -/
def pointY : (curveOf c).Point → ZMod c.p
  | .zero => 1
  | .some _ y _ => y

/-- Z of a point, likewise. -/
def pointZ : (curveOf c).Point → ZMod c.p
  | .zero => 0
  | .some _ _ _ => 1

theorem point_equation (A : (curveOf c).Point) :
    pointY A ^ 2 * pointZ A = pointX A ^ 3 + c.a * pointX A * pointZ A ^ 2 + c.b * pointZ A ^ 3 := by
  cases A with
  | zero => simp [pointX, pointY, pointZ]
  | some x y hn => simpa [pointX, pointY, pointZ] using (equation_curveOf c x y).1 hn.1

/-- The triple is canonical, and a nonzero multiple of the point's homogeneous coordinates. -/
def Represents (c : Cfg) (q : Proj) (A : (curveOf c).Point) : Prop :=
  ∃ u : ZMod c.p, u ≠ 0 ∧ q.Holds c.p (u * pointX A) (u * pointY A) (u * pointZ A)

/-- The homogeneous equation is one over GF(P). -/
theorem onProjCurve_cast (c : Cfg) (q : Proj) :
    OnProjCurve c q ↔ (q.y : ZMod c.p) ^ 2 * q.z = q.x ^ 3 + c.a * q.x * q.z ^ 2 + c.b * q.z ^ 3 := by
  rw [OnProjCurve, ← Nat.ModEq, ← ZMod.natCast_eq_natCast_iff]
  push_cast
  ring_nf

theorem Represents.equation {q : Proj} {A : (curveOf c).Point} (h : Represents c q A) :
    (q.y : ZMod c.p) ^ 2 * q.z = q.x ^ 3 + c.a * q.x * q.z ^ 2 + c.b * q.z ^ 3 := by
  obtain ⟨u, -, -, hx, hy, hz⟩ := h
  rw [hx, hy, hz]
  linear_combination u ^ 3 * point_equation A

/-- A triple that holds the coordinates of the point themselves represents it. -/
theorem represents_of_coords {q : Proj} {A : (curveOf c).Point} (h1 : 1 < c.p)
    (h : q.Holds c.p (pointX A) (pointY A) (pointZ A)) : Represents c q A := by
  have : Fact (1 < c.p) := ⟨h1⟩
  exact ⟨1, one_ne_zero, h.congr (one_mul _).symm (one_mul _).symm (one_mul _).symm⟩

theorem represents_identity (h1 : 1 < c.p) : Represents c Proj.identity .zero :=
  represents_of_coords h1 ⟨projOk_identity (Nat.zero_lt_of_lt h1) h1, Nat.cast_zero, Nat.cast_one, Nat.cast_zero⟩

theorem two_ne_zero_of_legal {prm : Params} (hc : cfgChecks prm c = true) : (2 : ZMod c.p) ≠ 0 := by
  have h5 := (modulus_ge hc).1
  exact_mod_cast (natCast_eq_zero_of_lt (show 2 < c.p by omega)).not.2 two_ne_zero

theorem addX_curveOf (x1 x2 l : ZMod c.p) : (curveOf c).addX x1 x2 l = l ^ 2 - x1 - x2 := by
  simp [WeierstrassCurve.Affine.addX, curveOf]

theorem addY_curveOf (x1 x2 y1 l : ZMod c.p) :
    (curveOf c).addY x1 x2 y1 l = l * (x1 - (l ^ 2 - x1 - x2)) - y1 := by
  rw [WeierstrassCurve.Affine.addY, WeierstrassCurve.Affine.negAddY, addX_curveOf]
  simp only [WeierstrassCurve.Affine.negY, curveOf]
  ring

theorem negY_curveOf (x y : ZMod c.p) : (curveOf c).negY x y = -y := by
  simp [WeierstrassCurve.Affine.negY, curveOf]

/-- The complete sum of the coordinates of A and B is v times the coordinates of C. -/
def SumIs (A B C : (curveOf c).Point) (v : ZMod c.p) : Prop :=
  sumX (c.a : ZMod c.p) c.b (pointX A) (pointY A) (pointZ A) (pointX B) (pointY B) (pointZ B) = v * pointX C ∧
  sumY (c.a : ZMod c.p) c.b (pointX A) (pointY A) (pointZ A) (pointX B) (pointY B) (pointZ B) = v * pointY C ∧
  sumZ (c.a : ZMod c.p) c.b (pointX A) (pointY A) (pointZ A) (pointX B) (pointY B) (pointZ B) = v * pointZ C

theorem sumIs_zero_right (A : (curveOf c).Point) : SumIs A .zero A (pointY A) := by
  simpa [SumIs, pointX, pointY, pointZ] using sum_identity (c.a : ZMod c.p) c.b (pointX A) (pointY A) (pointZ A) 1

theorem SumIs.symm {A B C : (curveOf c).Point} {v : ZMod c.p} (h : SumIs A B C v) : SumIs B A C v := by
  obtain ⟨hx, hy, hz⟩ :=
    sum_comm (c.a : ZMod c.p) c.b (pointX A) (pointY A) (pointZ A) (pointX B) (pointY B) (pointZ B)
  rwa [SumIs, hx, hy, hz] at h

variable [hp : Fact c.p.Prime]

/-- A represented triple is valid and denotes the point. -/
theorem Represents.valid_denotes {q : Proj} {A : (curveOf c).Point} (h : Represents c q A) :
    ValidTriple c q ∧ DenotesPoint c q A := by
  have heq := (onProjCurve_cast c q).2 h.equation
  obtain ⟨u, hu, ⟨hx, hy, hz⟩, ex, ey, ez⟩ := h
  cases A with
  | zero =>
    have hx0 : q.x = 0 := (natCast_eq_zero_of_lt hx).1 (ex.trans (mul_zero u))
    have hz0 : q.z = 0 := (natCast_eq_zero_of_lt hz).1 (ez.trans (mul_zero u))
    have hy0 : q.y ≠ 0 := fun h0 => hu (by rw [← mul_one u, ← (natCast_eq_zero_of_lt hy).2 h0]; exact ey.symm)
    exact ⟨⟨⟨hx, hy, hz⟩, .inr ⟨hx0, hz0, hy0⟩⟩, hz0⟩
  | some x y hn =>
    have hzu : (q.z : ZMod c.p) = u := ez.trans (mul_one u)
    have hz0 : q.z ≠ 0 := fun h0 => hu (by rw [← hzu, h0, Nat.cast_zero])
    exact ⟨⟨⟨hx, hy, hz⟩, .inl ⟨hz0, heq⟩⟩, hz0, by rw [hzu, ex, mul_comm]; rfl, by rw [hzu, ey, mul_comm]; rfl⟩

theorem represents_of_denotes {q : Proj} {A : (curveOf c).Point} (hv : ValidTriple c q) (hd : DenotesPoint c q A) :
    Represents c q A := by
  obtain ⟨⟨hx, hy, hz⟩, hcase⟩ := hv
  cases A with
  | zero =>
    have hz0 : q.z = 0 := hd
    obtain ⟨hne, -⟩ | ⟨hx0, -, hy0⟩ := hcase
    · exact absurd hz0 hne
    · exact ⟨q.y, (natCast_eq_zero_of_lt hy).not.2 hy0, ⟨hx, hy, hz⟩, by simp [pointX, hx0], by simp [pointY],
        by simp [pointZ, hz0]⟩
  | some x y hn =>
    obtain ⟨hz0, ex, ey⟩ := hd
    exact ⟨q.z, (natCast_eq_zero_of_lt hz).not.2 hz0, ⟨hx, hy, hz⟩, by rw [← ex, mul_comm]; rfl,
      by rw [← ey, mul_comm]; rfl, (mul_one _).symm⟩

/-- PEQ's test is 1 exactly on triples of the same point (R209). -/
theorem samePoint_iff {q1 q2 : Proj} {A B : (curveOf c).Point} (h1 : Represents c q1 A) (h2 : Represents c q2 B) :
    samePoint c.p q1 q2 = true ↔ A = B := by
  obtain ⟨u, hu, -, hx, hy, hz⟩ := h1
  obtain ⟨v, hv, -, hx', hy', hz'⟩ := h2
  have cross (m n m' n' : Nat) : (mulMod c.p m n == mulMod c.p m' n') = true ↔ (m * n : ZMod c.p) = m' * n' := by
    rw [beq_iff_eq, ← natCast_inj_of_lt (mulMod_lt hp.out.pos _ _) (mulMod_lt hp.out.pos _ _), cast_mulMod, cast_mulMod]
  have huv : u * v ≠ 0 := mul_ne_zero hu hv
  have scaled (e f e' f' : ZMod c.p) : u * e * (v * f) = v * e' * (u * f') ↔ e * f = e' * f' := by
    rw [show u * e * (v * f) = u * v * (e * f) by ring, show v * e' * (u * f') = u * v * (e' * f') by ring,
      mul_right_inj' huv]
  rw [samePoint, Bool.and_eq_true, cross, cross, hx, hy, hz, hx', hy', hz', scaled, scaled]
  cases A <;> cases B <;> simp [pointX, pointY, pointZ]

theorem Represents.unique {q : Proj} {A B : (curveOf c).Point} (h : Represents c q A) (h' : Represents c q B) : A = B :=
  (samePoint_iff h h').1 (by simp [samePoint])

section
variable {prm : Params} (hc : cfgChecks prm c = true)
include hc

/-- A triple on a legal curve over a prime field denotes a point (R190). -/
theorem exists_represents {q : Proj} (hv : ValidTriple c q) : ∃ A : (curveOf c).Point, Represents c q A := by
  obtain ⟨hz0, heq⟩ | ⟨-, hz0, -⟩ := hv.2
  · have hz' := (natCast_eq_zero_of_lt hv.1.2.2).not.2 hz0
    have hcurve : (curveOf c).Equation ((q.x : ZMod c.p) / q.z) ((q.y : ZMod c.p) / q.z) := by
      rw [equation_curveOf]
      field_simp
      linear_combination (onProjCurve_cast c q).1 heq
    exact ⟨.some _ _ (nonsingular_of_equation hc hp.out hcurve),
      represents_of_denotes hv ⟨hz0, div_mul_cancel₀ _ hz', div_mul_cancel₀ _ hz'⟩⟩
  · exact ⟨.zero, represents_of_denotes hv hz0⟩

end

/-! ### The group law on coordinates -/

section
variable {prm : Params} (hc : cfgChecks prm c = true) (hs : CfgSound c)
include hc hs

omit hs in
theorem eight_ne_zero : (8 : ZMod c.p) ≠ 0 := by
  rw [show (8 : ZMod c.p) = 2 ^ 3 by norm_num]
  exact pow_ne_zero 3 (two_ne_zero_of_legal hc)

/-- Under a sound configuration no point has y = 0, because none has order two (R199). -/
theorem y_ne_zero {x y : ZMod c.p} (h : y ^ 2 = x ^ 3 + c.a * x + c.b) : y ≠ 0 := by
  rintro rfl
  exact no_order_two hc hs x (by rw [← h, zero_pow two_ne_zero])

theorem pointY_ne_zero (A : (curveOf c).Point) : pointY A ≠ 0 := by
  cases A with
  | zero => exact one_ne_zero
  | some x y hn => exact y_ne_zero hc hs ((equation_curveOf c x y).1 hn.1)

variable {x1 y1 x2 y2 : ZMod c.p} (h1 : (curveOf c).Nonsingular x1 y1) (h2 : (curveOf c).Nonsingular x2 y2)

/-- The chord: the scale is Z of the sum, which is y of the difference of the points, up to a unit. -/
theorem sumIs_chord (hne : x1 ≠ x2) :
    ∃ v ≠ 0, SumIs (.some x1 y1 h1) (.some x2 y2 h2) (.some x1 y1 h1 + .some x2 y2 h2) v := by
  have e1 := (equation_curveOf c x1 y1).1 h1.1
  have e2 := (equation_curveOf c x2 y2).1 h2.1
  have e2' : (-y2) ^ 2 = x2 ^ 3 + c.a * x2 + c.b := by rw [neg_sq, e2]
  obtain ⟨hx, hy⟩ := chord_sum e1 e2 hne
  have hdiff := y_ne_zero hc hs (chord_equation e1 e2' hne)
  refine ⟨sumZ (c.a : ZMod c.p) c.b x1 y1 1 x2 y2 1, ?_, ?_⟩
  · rw [chord_sumZ e1 e2 hne]
    rw [sub_neg_eq_add] at hdiff
    exact mul_ne_zero (pow_ne_zero 3 (sub_ne_zero.2 hne.symm)) hdiff
  · rw [WeierstrassCurve.Affine.Point.add_of_X_ne hne]
    simp only [SumIs, pointX, pointY, pointZ, addX_curveOf, addY_curveOf,
      WeierstrassCurve.Affine.slope_of_X_ne hne, mul_one, and_true]
    exact ⟨hx, hy⟩

/-- The tangent: the scale is Z of the doubling, 8·y³. -/
theorem sumIs_tangent : ∃ v ≠ 0, SumIs (.some x1 y1 h1) (.some x1 y1 h1) (.some x1 y1 h1 + .some x1 y1 h1) v := by
  have e1 := (equation_curveOf c x1 y1).1 h1.1
  have hy0 := y_ne_zero hc hs e1
  have h2 : (2 : ZMod c.p) ≠ 0 := two_ne_zero_of_legal hc
  have hne : y1 ≠ (curveOf c).negY x1 y1 := by
    rw [negY_curveOf]
    intro h
    exact mul_ne_zero h2 hy0 (by linear_combination h)
  obtain ⟨sx, sy, sz⟩ := sum_self (a := (c.a : ZMod c.p)) (b := c.b) (x := x1) (y := y1) (z := 1)
    (by linear_combination e1)
  obtain ⟨hx, hy⟩ := tangent_double e1 hy0 h2
  refine ⟨dblZ y1 1, ?_, ?_⟩
  · simpa [dblZ, hy0] using eight_ne_zero hc
  · have hslope : (curveOf c).slope x1 x1 y1 y1 = (3 * x1 ^ 2 + c.a) / (2 * y1) := by
      rw [WeierstrassCurve.Affine.slope_of_Y_ne rfl hne, negY_curveOf]
      simp only [curveOf]
      ring_nf
    rw [WeierstrassCurve.Affine.Point.add_self_of_Y_ne hne]
    simp only [SumIs, pointX, pointY, pointZ, addX_curveOf, addY_curveOf, hslope, sx, sy, sz, hx, hy, mul_one, and_true]
    exact ⟨by ring, by ring⟩

/-- A point and its negative: the scale is Y of the sum, which is y of the double, up to a unit. -/
theorem sumIs_neg (hn : (curveOf c).Nonsingular x1 (-y1)) :
    ∃ v ≠ 0, SumIs (.some x1 y1 h1) (.some x1 (-y1) hn) (.some x1 y1 h1 + .some x1 (-y1) hn) v := by
  have e1 := (equation_curveOf c x1 y1).1 h1.1
  have hy0 := y_ne_zero hc hs e1
  have h2 : (2 : ZMod c.p) ≠ 0 := two_ne_zero_of_legal hc
  obtain ⟨hx, hz, hy⟩ := sum_neg e1 hy0 h2
  refine ⟨sumY (c.a : ZMod c.p) c.b x1 y1 1 x1 (-y1) 1, ?_, ?_⟩
  · rw [hy]
    have hdouble := y_ne_zero hc hs (tangent_equation e1 hy0 h2)
    exact mul_ne_zero (mul_ne_zero (eight_ne_zero hc) (pow_ne_zero 3 hy0)) hdouble
  · rw [WeierstrassCurve.Affine.Point.add_of_Y_eq rfl (by rw [negY_curveOf, neg_neg])]
    exact ⟨hx.trans (mul_zero _).symm, (mul_one _).symm, hz.trans (mul_zero _).symm⟩

/-- The complete sum of the coordinates of two points is a nonzero multiple of the coordinates of their sum (R199):
one of the points is the identity, or the sum is that of a chord, of a tangent, or of a point and its negative. -/
theorem sum_coords (A B : (curveOf c).Point) : ∃ v ≠ 0, SumIs A B (A + B) v := by
  cases A with
  | zero => exact ⟨pointY B, pointY_ne_zero hc hs B, (zero_add B).symm ▸ (sumIs_zero_right B).symm⟩
  | some x1 y1 h1 =>
    cases B with
    | zero =>
      refine ⟨_, pointY_ne_zero hc hs (.some x1 y1 h1), ?_⟩
      rw [← WeierstrassCurve.Affine.Point.zero_def, add_zero]
      exact sumIs_zero_right _
    | some x2 y2 h2 =>
      by_cases hx : x1 = x2
      · subst hx
        have e1 := (equation_curveOf c x1 y1).1 h1.1
        have e2 := (equation_curveOf c x1 y2).1 h2.1
        obtain rfl | rfl := sq_eq_sq_iff_eq_or_eq_neg.1 (e2.trans e1.symm)
        · exact sumIs_tangent hc hs h1
        · exact sumIs_neg hc hs h1 h2
      · exact sumIs_chord hc hs h1 h2 hx

variable {q q1 q2 : Proj} {A B : (curveOf c).Point}

/-- PADD's formula is the group's addition, whichever variant is selected (R199, R200). -/
theorem represents_pointAdd (hA : Represents c q1 A) (hB : Represents c q2 B) :
    Represents c (pointAdd c q1 q2) (A + B) := by
  obtain ⟨u, hu, -, ex, ey, ez⟩ := hA
  obtain ⟨v, hv, -, ex', ey', ez'⟩ := hB
  obtain ⟨w, hw, hx, hy, hz⟩ := sum_coords hc hs A B
  obtain ⟨sx, sy, sz⟩ :=
    sum_scale (c.a : ZMod c.p) c.b u (pointX A) (pointY A) (pointZ A) v (pointX B) (pointY B) (pointZ B)
  have h := pointAdd_holds hp.out.pos (variantOk_of_legal hc) q1 q2
  rw [ex, ey, ez, ex', ey', ez', sx, sy, sz, hx, hy, hz] at h
  exact ⟨(u * v) ^ 2 * w, mul_ne_zero (pow_ne_zero 2 (mul_ne_zero hu hv)) hw,
    h.congr (mul_assoc _ _ _).symm (mul_assoc _ _ _).symm (mul_assoc _ _ _).symm⟩

/-- On the curve the doubling formula is the complete sum of the triple with itself. -/
theorem represents_pointDouble (hA : Represents c q A) : Represents c (pointDouble c q) (A + A) := by
  obtain ⟨hx, hy, hz⟩ := sum_self hA.equation
  have hv := variantOk_of_legal hc
  have heq := (pointDouble_holds hp.out.pos hv q).unique ((pointAdd_holds hp.out.pos hv q q).congr hx hy hz)
  exact heq ▸ represents_pointAdd hc hs hA hA

theorem represents_scalarMul {nib k : Nat} (hk : k < 16 ^ nib) (hA : Represents c q A) :
    Represents c (scalarMul c nib k q) (k • A) :=
  scalarMul_rel (R := Represents c) (represents_pointAdd hc hs) (represents_pointDouble hc hs)
    (represents_identity hp.out.one_lt) hA hk

end

end

end Sys2Proof.Machine

/-! ### Point values of the commands (42_projective.md, R173, R201 to R206) -/

namespace Sys2Proof.Machine

theorem cast_negMod {p : Nat} (hp : 0 < p) (v : Nat) : (negMod p v : ZMod p) = -v := by
  rw [negMod, cast_subMod hp, Nat.cast_zero, zero_sub]

theorem validTriple_identity {c : Cfg} (h1 : 1 < c.p) : ValidTriple c Proj.identity :=
  ⟨projOk_identity (Nat.zero_lt_of_lt h1) h1, .inr ⟨rfl, rfl, one_ne_zero⟩⟩

section
variable {c : Cfg}

theorem onCurve_negMod (hp : 0 < c.p) {x y : Nat} (h : onCurve c x y = true) : onCurve c x (negMod c.p y) = true := by
  rw [onCurve_cast, equation_curveOf] at h ⊢
  rwa [cast_negMod hp, neg_sq]

theorem onAffineCurve_neg (hp : 0 < c.p) {a : Affine} (h : OnAffineCurve c a) : OnAffineCurve c (a.neg c.p) := by
  obtain rfl | ⟨hinf, hx, -, hon⟩ := h
  · exact .inl (by rw [Affine.neg, Affine.identity, negMod_zero])
  · exact .inr ⟨hinf, hx, negMod_lt hp _, onCurve_negMod hp hon⟩

theorem onAffineCurve_maskPoint {ok : Bool} {a : Affine} (h : ok = true → OnAffineCurve c a) :
    OnAffineCurve c (maskPoint ok a) := by
  cases ok with
  | true => exact h rfl
  | false => exact .inl rfl

/-- PFROMA's triple is one of the point that the affine value denotes (R206). -/
theorem represents_toProj (h1 : 1 < c.p) {a : Affine} {A : (curveOf c).Point} (ha : OnAffineCurve c a)
    (hd : AffineDenotes c a A) : Represents c a.toProj A := by
  cases A with
  | zero =>
    have hinf : a.inf = true := hd
    rw [Affine.toProj, if_pos hinf]
    exact represents_identity h1
  | some x y hn =>
    obtain ⟨hinf, rfl, rfl⟩ := hd
    obtain rfl | ⟨-, hx, hy, -⟩ := ha
    · cases hinf
    · rw [Affine.toProj, hinf]
      exact represents_of_coords h1 ⟨⟨hx, hy, h1⟩, rfl, rfl, Nat.cast_one⟩

/-- PADDM is the complete sum with the triple of the affine operand, where that is finite (R201). -/
theorem mixedSum_of_finite (hp : 0 < c.p) (hv : c.VariantOk) (q : Proj) {a : Affine} (hinf : a.inf = false) :
    mixedSum c q a = pointAdd c q ⟨a.x, a.y, 1⟩ := by
  rw [← pointAddMixed_eq_pointAdd hp hv, mixedSum, hinf]
  rfl

theorem mixedSum_congr {c c' : Cfg} (h : pointAddMixed c = pointAddMixed c') (q : Proj) (a : Affine) :
    mixedSum c q a = mixedSum c' q a := by
  rw [mixedSum, mixedSum, h]

theorem mixedSum_of_identity (q : Proj) {a : Affine} (hinf : a.inf = true) : mixedSum c q a = q := by
  rw [mixedSum, hinf]
  rfl

variable [hp : Fact c.p.Prime]

theorem Represents.valid {q : Proj} {A : (curveOf c).Point} (h : Represents c q A) : ValidTriple c q :=
  h.valid_denotes.1

theorem Represents.denotes {q : Proj} {A : (curveOf c).Point} (h : Represents c q A) : DenotesPoint c q A :=
  h.valid_denotes.2

/-- PNEG's triple is one of the negative (R203). -/
theorem Represents.neg {q : Proj} {A : (curveOf c).Point} (h : Represents c q A) : Represents c (q.neg c.p) (-A) := by
  obtain ⟨u, hu, hq, ex, ey, ez⟩ := h
  have hq' := projOk_neg hp.out.pos hq
  have ey' : ((q.neg c.p).y : ZMod c.p) = -(u * pointY A) := by rw [← ey, Proj.neg, cast_negMod hp.out.pos]
  cases A with
  | zero =>
    have zero {v : Nat} (h : (v : ZMod c.p) = u * 0) : (v : ZMod c.p) = -u * 0 := by rw [h, mul_zero, mul_zero]
    exact ⟨-u, neg_ne_zero.2 hu, hq', zero ex, by rw [ey', ← neg_mul]; rfl, zero ez⟩
  | some x y hn => exact ⟨u, hu, hq', ex, by rw [ey', ← mul_neg, pointY, ← negY_curveOf x y]; rfl, ez⟩

section
variable {prm : Params} (hc : cfgChecks prm c = true)
include hc

theorem exists_affineDenotes {a : Affine} (ha : OnAffineCurve c a) : ∃ A : (curveOf c).Point, AffineDenotes c a A := by
  obtain rfl | ⟨hinf, -, -, hon⟩ := ha
  · exact ⟨.zero, rfl⟩
  · exact ⟨.some _ _ (nonsingular_of_equation hc hp.out ((onCurve_cast c _ _).1 hon)), hinf, rfl, rfl⟩

theorem represents_mixedSum (hs : CfgSound c) {q : Proj} {a : Affine} {A B : (curveOf c).Point} (hA : Represents c q A)
    (ha : OnAffineCurve c a) (hB : AffineDenotes c a B) : Represents c (mixedSum c q a) (A + B) := by
  have hrep := represents_toProj hp.out.one_lt ha hB
  cases B with
  | zero =>
    have hinf : a.inf = true := hB
    rw [mixedSum_of_identity q hinf]
    exact (add_zero A).symm ▸ hA
  | some x y hn =>
    have hinf : a.inf = false := hB.1
    rw [Affine.toProj, hinf] at hrep
    rw [mixedSum_of_finite hp.out.pos (variantOk_of_legal hc) q hinf]
    exact represents_pointAdd hc hs hA hrep

end

end

/-! ### PTOAFF (R205) -/

section
variable {s : State} (rd : PReg) {q : Proj}

theorem toAffine_of_zero (hz : q.z = 0) : s.toAffine rd q = s.setAffine rd Affine.identity := by
  simp [State.toAffine, State.inverseOfZ, hz]

/-- Where Z has an inverse, what is written are the quotients by Z, under every configuration. -/
theorem toAffine_of_coprime (h1 : 1 < s.cfg.p) (hq : ProjOk true s.cfg.p q) (hz : Nat.gcd q.z s.cfg.p = 1) :
    ∃ x y, x < s.cfg.p ∧ y < s.cfg.p ∧ x * q.z % s.cfg.p = q.x ∧ y * q.z % s.cfg.p = q.y ∧
      s.toAffine rd q = s.setAffine rd ⟨x, y, false⟩ := by
  obtain ⟨hx, hy, -⟩ := hq
  obtain ⟨hstate, hinv⟩ := inverseOfZ_of_coprime h1 hz
  have hz0 : q.z ≠ 0 := by rintro h0; rw [h0, Nat.gcd_zero_left] at hz; omega
  have quotient {v : Nat} (hv : v < s.cfg.p) : mulMod s.cfg.p v (s.inverseOfZ q.z).1 * q.z % s.cfg.p = v := by
    rw [mulMod, Nat.mod_mul_mod, mul_assoc, mul_comm _ q.z, Nat.mul_mod, hinv, mul_one, Nat.mod_mod,
      Nat.mod_eq_of_lt hv]
  have hp := Nat.zero_lt_of_lt h1
  refine ⟨_, _, mulMod_lt hp _ _, mulMod_lt hp _ _, quotient hx, quotient hy, ?_⟩
  simp only [State.toAffine, hstate, if_pos hz0]

/-- A nonzero Z without an inverse draws the factor (log entry 8). -/
theorem toAffine_of_not_coprime (hp : 0 < s.cfg.p) (hz : q.z ≠ 0) (hg : Nat.gcd q.z s.cfg.p ≠ 1) :
    ∃ v, v < s.cfg.p ∧ s.toAffine rd q =
      { s.setAffine rd ⟨q.x * v % s.cfg.p, q.y * v % s.cfg.p, false⟩ with draws := s.draws + 1 } := by
  have hnone : invMod s.cfg.p q.z = none := (invMod_eq_none_iff hp q.z).2 (by rwa [Nat.gcd_comm])
  refine ⟨Config.freeNat s.draws % s.cfg.p, Nat.mod_lt _ hp, ?_⟩
  simp only [State.toAffine, State.inverseOfZ, if_neg hz, hnone, if_pos hz]
  rfl

/-- The quotients of a triple on the curve by a Z that has an inverse are a point of the curve. -/
theorem onAffineCurve_of_quotients {c : Cfg} {x y : Nat} (hz : Nat.gcd q.z c.p = 1) (hx : x < c.p) (hy : y < c.p)
    (ex : x * q.z % c.p = q.x) (ey : y * q.z % c.p = q.y) (h : OnProjCurve c q) : OnAffineCurve c ⟨x, y, false⟩ := by
  have hunit : IsUnit ((q.z : ZMod c.p) ^ 3) := ((ZMod.isUnit_iff_coprime q.z c.p).2 hz).pow 3
  have cx : (q.x : ZMod c.p) = x * q.z := by rw [← ex, ZMod.natCast_mod, Nat.cast_mul]
  have cy : (q.y : ZMod c.p) = y * q.z := by rw [← ey, ZMod.natCast_mod, Nat.cast_mul]
  refine .inr ⟨rfl, hx, hy, ?_⟩
  rw [onProjCurve_cast, cx, cy] at h
  rw [onCurve_cast, equation_curveOf, ← hunit.mul_right_inj]
  linear_combination h

/-- Over a prime field PTOAFF writes the point that the triple denotes. -/
theorem toAffine_of_represents [hp : Fact s.cfg.p.Prime] {A : (curveOf s.cfg).Point} (h : Represents s.cfg q A) :
    ∃ a, OnAffineCurve s.cfg a ∧ AffineDenotes s.cfg a A ∧ s.toAffine rd q = s.setAffine rd a := by
  obtain ⟨⟨hq, -⟩, hd⟩ := h.valid_denotes
  have heq := (onProjCurve_cast s.cfg q).2 h.equation
  cases A with
  | zero => exact ⟨Affine.identity, .inl rfl, rfl, toAffine_of_zero rd hd⟩
  | some x0 y0 hn =>
    obtain ⟨hz0, ex0, ey0⟩ := hd
    have hz : Nat.gcd q.z s.cfg.p = 1 := (Nat.coprime_of_lt_prime hz0 hq.2.2 hp.out).symm
    obtain ⟨x, y, hx, hy, ex, ey, ht⟩ := toAffine_of_coprime rd hp.out.one_lt hq hz
    have hzne := (natCast_eq_zero_of_lt hq.2.2).not.2 hz0
    refine ⟨_, onAffineCurve_of_quotients hz hx hy ex ey heq, ⟨rfl, ?_, ?_⟩, ht⟩
    · rw [← mul_left_inj' hzne, ex0, ← ex, ZMod.natCast_mod, Nat.cast_mul]
    · rw [← mul_left_inj' hzne, ey0, ← ey, ZMod.natCast_mod, Nat.cast_mul]

end

/-! ### The projective commands (42_projective.md) -/

/-- A command of format R whose rule writes one Q register. -/
theorem command_of_setProj {i : Instr} {s : State} {rd : PReg} {f : State → Proj} {q : Proj}
    (hs : shapeOf i = .register) (hl : s.locked = true) (h : f s = q) :
    command i s (fun s => .ok (s.setProj rd (f s))) =
      .next { s with qRegs := s.qRegs.set rd q, done := true, inflight := none } :=
  command_of_register hs hl (h ▸ rfl)

/-- Negating the second coordinate is integer negation modulo a positive P (R203). -/
theorem Proj.neg_eq {p : Nat} (hp : 0 < p) (q : Proj) : q.neg p = ⟨q.x, ((-(q.y : Int)) % p).toNat, q.z⟩ := by
  rw [Proj.neg, negMod_eq_toNat hp]

/-- Settles O45: each rule is one register write. -/
theorem projectiveMoves : Obligations.ProjectiveMoves := by
  intro s rd ra rb ks hi hl
  have sel := (apply_ite s.proj (s.choice ks = true) rb ra).symm
  unfold exec
  exact ⟨command_of_setProj rfl hl (Proj.neg_eq (hi.p_pos hl) _),
    fun h => command_of_setProj rfl hl (if_neg (by simp [h])), fun h => command_of_setProj rfl hl (if_pos h),
    command_of_setProj rfl hl sel, command_of_setProj rfl hl rfl⟩

/-- Settles O46, by whether Z is 0, has an inverse, or has none. -/
theorem toAffineResults : Obligations.ToAffineResults := by
  intro s rd ra hi hl
  have h1 := hi.one_lt_p hl
  unfold exec
  refine ⟨fun hz => ?identity, fun _ hg => ?quotients, fun hz hg => ?drawn⟩
  case identity => exact command_of_register rfl hl (congrArg State.complete (toAffine_of_zero rd hz))
  case quotients =>
    obtain ⟨x, y, hx, hy, ex, ey, ht⟩ := toAffine_of_coprime rd h1 (hi.proj_ok hl ra) hg
    exact ⟨x, y, hx, hy, ex, ey, onAffineCurve_of_quotients hg hx hy ex ey,
      command_of_register rfl hl (congrArg State.complete ht)⟩
  case drawn =>
    obtain ⟨v, hv, ht⟩ := toAffine_of_not_coprime rd (hi.p_pos hl) hz hg
    exact ⟨v, hv, command_of_register rfl hl (congrArg State.complete ht)⟩

/-- PEQ's test is cross-multiplication (R209). -/
theorem samePoint_eq_decide (p : Nat) (q1 q2 : Proj) :
    samePoint p q1 q2 =
      decide (q1.x * q2.z % p = q2.x * q1.z % p ∧ q1.y * q2.z % p = q2.y * q1.z % p) := by
  rw [Bool.decide_and]
  rfl

/-- Settles O47: PEQ's test is cross-multiplication, which over a prime field decides equality of points. -/
theorem pointPredicates : Obligations.PointPredicates := by
  unfold Obligations.PointPredicates exec
  refine ⟨fun s kd ra rb hl => ?tests, fun s t kd ra rb A B _ hl hp va vb da db h => ?equality⟩
  case tests =>
    have peq := congrArg (fun b => (s.setChoice kd b).complete) (samePoint_eq_decide s.cfg.p (s.proj ra) (s.proj rb))
    exact ⟨command_of_register rfl hl rfl, command_of_register rfl hl peq⟩
  case equality =>
    have := Fact.mk hp
    rw [choice_of_command rfl hl h]
    exact samePoint_iff (represents_of_denotes va da) (represents_of_denotes vb db)

/-- Settles O48: the step lists are the polynomials over GF(P), and what they write is canonical. -/
theorem additionFormulaResults : Obligations.AdditionFormulaResults := by
  intro s rd ra rb hi hl sum red
  have hp := hi.p_pos hl
  have hv := variantOk_of_legal (hi.legalCfg hl)
  have hadd (q1 q2 : Proj) : pointAdd s.cfg q1 q2 = red (sum q1 q2) := by
    refine Proj.Holds.eq_residues ((pointAdd_holds hp hv q1 q2).congr ?_ ?_ ?_)
    · simp only [sum, sumX]; push_cast; ring
    · simp only [sum, sumY]; push_cast; ring
    · simp only [sum, sumZ]; push_cast; ring
  unfold exec
  exact ⟨command_of_setProj rfl hl (hadd _ _),
    fun hinf => command_of_setProj rfl hl ((mixedSum_of_finite hp hv _ hinf).trans (hadd _ _)),
    fun hinf => command_of_setProj rfl hl (mixedSum_of_identity _ hinf)⟩

/-- A scalar register has at most NIB nibbles (R7, R33). -/
theorem Inv.scalar_lt_pow_nib {s : State} (hi : Inv s) (hl : s.locked = true) (i : EReg) :
    s.elem .scalar i < 16 ^ s.cfg.nib := by
  obtain ⟨-, -, hn⟩ := hi.modulus_legal hl .scalar
  calc s.elem .scalar i < 2 ^ s.cfg.l := (hi.elem_lt hl .scalar i).trans hn
    _ ≤ 2 ^ (4 * s.cfg.nib) := Nat.pow_le_pow_right (by decide) (by unfold Cfg.nib; omega)
    _ = 16 ^ s.cfg.nib := pow_mul 2 4 _

/-- Settles O49, the doubling as O48; what PMUL writes is canonical, and every step of it keeps the identity. -/
theorem doublingFormulaResults : Obligations.DoublingFormulaResults := by
  intro s rd ra rb hi hl a b x y z m p k
  have hp := hi.p_pos hl
  have h1 := hi.one_lt_p hl
  have hv := variantOk_of_legal (hi.legalCfg hl)
  have hdbl : pointDouble s.cfg (s.proj ra) =
      ⟨((2 * (x * y) * m - 2 * (y * z) * k) % s.cfg.p).toNat,
        ((p * m + (3 * (x * x) + a * (z * z)) * k) % s.cfg.p).toNat, ((8 * (y * y * y) * z) % s.cfg.p).toNat⟩ := by
    refine Proj.Holds.eq_residues ((pointDouble_holds hp hv (s.proj ra)).congr ?_ ?_ ?_)
    · simp only [dblX, a, b, x, y, z, m, k]; push_cast; ring
    · simp only [dblY, a, b, x, y, z, m, p, k]; push_cast; ring
    · simp only [dblZ, y, z]; push_cast; ring
  obtain ⟨hx, hy, hz⟩ := projOk_scalarMul hp h1 s.cfg.nib (s.elem .scalar rb) (s.proj ra)
  have hid := scalarMul_identity hp hv h1 (hi.scalar_lt_pow_nib hl rb)
  unfold exec
  exact ⟨command_of_setProj rfl hl hdbl, ⟨_, hx, hy, hz, command_of_setProj rfl hl rfl⟩,
    fun h => command_of_setProj rfl hl ((congrArg (scalarMul _ _ _) h).trans hid)⟩

/-- Settles O50: with A = P - 3 both selections are right, so that the formulas agree, and with them the
multiplication. -/
theorem variantsAgree : Obligations.VariantsAgree := by
  intro s rd ra rb k hi hl ha i hmem
  have hp := hi.p_pos hl
  have h3 : (s.cfg.a : ZMod s.cfg.p) = -3 := by
    have h5 : 5 ≤ s.cfg.p := hi.modulus_ge_five hl .field
    rw [ha, cast_sub_three (le_trans (by decide) h5)]
  obtain ⟨hadd, hmixed, hdbl⟩ :=
    formulas_eq_of_variants (c := s.cfg) (m := 1) (m' := 0) hp (fun _ => h3) (fun _ => h3)
  simp only [List.mem_cons, List.not_mem_nil, or_false] at hmem
  unfold exec
  obtain rfl | rfl | rfl | rfl := hmem
  · exact ⟨_, command_of_setProj rfl hl rfl, command_of_setProj rfl hl (congrFun₂ hadd _ _)⟩
  · exact ⟨_, command_of_setProj rfl hl rfl, command_of_setProj rfl hl (mixedSum_congr hmixed _ _)⟩
  · exact ⟨_, command_of_setProj rfl hl rfl, command_of_setProj rfl hl (congrFun hdbl _)⟩
  · exact ⟨_, command_of_setProj rfl hl rfl, command_of_setProj rfl hl (scalarMul_congr hadd hdbl _ _ _)⟩

/-- Settles O51: a triple represents what it denotes, and PEQ's test of a triple with itself is 1. -/
theorem pointsAreDenoted : Obligations.PointsAreDenoted := by
  intro s hi hl hprime
  have := Fact.mk hprime
  have hc := hi.legalCfg hl
  refine ⟨fun q hq => ?triple, fun a ha => ?affine, rfl⟩
  case triple =>
    obtain ⟨A, hA⟩ := exists_represents hc hq
    exact ⟨A, hA.denotes, fun B hB => (represents_of_denotes hq hB).unique hA⟩
  case affine =>
    obtain ⟨A, hA⟩ := exists_affineDenotes hc ha
    have hrep {B} := represents_toProj (A := B) hprime.one_lt ha
    exact ⟨A, hA, fun B hB => (hrep hB).unique (hrep hA)⟩

/-- Settles O52: the formula's triple represents the sum. -/
theorem paddIsGroupAddition : Obligations.PaddIsGroupAddition := by
  intro s _ rd ra rb A B hi hl hs va vb da db
  have h := represents_pointAdd (hi.legalCfg hl) hs (represents_of_denotes va da) (represents_of_denotes vb db)
  unfold exec
  exact ⟨_, h.valid, h.denotes, command_of_setProj rfl hl rfl⟩

/-- Settles O53: each command's value represents, or is, that of the group's operation. -/
theorem pointCommandsAreGroupOperations : Obligations.PointCommandsAreGroupOperations := by
  intro s hprime rd ra rb A B hi hl hs va vb da db
  have hc := hi.legalCfg hl
  have hA := represents_of_denotes va da
  have sum := represents_mixedSum hc hs hA vb db
  have double := represents_pointDouble hc hs hA
  have neg := hA.neg
  obtain ⟨a, hon, hden, ht⟩ := toAffine_of_represents rd hA
  have lift := represents_toProj hprime.out.one_lt vb db
  unfold exec
  exact ⟨⟨_, sum.valid, sum.denotes, command_of_setProj rfl hl rfl⟩,
    ⟨_, double.valid, double.denotes, command_of_setProj rfl hl rfl⟩,
    ⟨_, neg.valid, neg.denotes, command_of_setProj rfl hl rfl⟩,
    ⟨a, hon, hden, command_of_register rfl hl (congrArg State.complete ht)⟩,
    ⟨_, lift.valid, lift.denotes, command_of_setProj rfl hl rfl⟩⟩

/-- Settles O54: a scalar register has at most NIB nibbles, and for these the window multiplication is the multiple. -/
theorem pmulIsScalarMultiple : Obligations.PmulIsScalarMultiple := by
  intro s _ rd ra rb A hi hl hs va da
  have h := represents_scalarMul (hi.legalCfg hl) hs (hi.scalar_lt_pow_nib hl rb) (represents_of_denotes va da)
  unfold exec
  exact ⟨_, h.valid, h.denotes, command_of_setProj rfl hl rfl⟩

end Sys2Proof.Machine

/-! ### The point registers at all times (R199, R26) -/

namespace Sys2Proof.Machine

/-! #### PDEC's point is on the curve (R242, R243) -/

section
variable {s : State} (hi : Inv s) (hl : s.locked = true) (hs : CfgSound s.cfg)
include hi hl hs

/-- Under a sound configuration a lifted point with validity 1 is on the curve, whichever of ±β is picked. -/
theorem onAffineCurve_liftX {x : Nat} {pick : Nat → Nat}
    (hpick : ∀ β, pick β = β ∨ pick β = negMod s.cfg.p β) (hok : (s.liftX x pick).1.2 = true) :
    OnAffineCurve s.cfg (s.liftX x pick).1.1 := by
  have hp := hi.p_pos hl
  simp only [State.liftX, State.squareRoot, exactOrDrawn_of_cfgSound hi hl hs, Bool.and_eq_true, decide_eq_true_eq,
    Option.isSome_iff_exists] at hok ⊢
  obtain ⟨hx, β, hβ⟩ := hok
  rw [if_pos hx] at hβ ⊢
  rw [hβ, Option.getD_some]
  obtain ⟨hlt, hsq⟩ := sqrtMod_spec hp hβ
  have hon : onCurve s.cfg x β = true := beq_iff_eq.2 hsq
  refine .inr ⟨rfl, hx, ?_⟩
  obtain h | h := hpick β
  · rw [h]
    exact ⟨hlt, hon⟩
  · rw [h]
    exact ⟨negMod_lt hp β, onCurve_negMod hp hon⟩

theorem onAffineCurve_readPoint {off : Nat} {r : (Affine × Bool) × State} (h : s.readPoint off = .ok r)
    (hok : r.1.2 = true) : OnAffineCurve s.cfg r.1.1 := by
  simp only [State.readPoint, pure, Except.pure] at h
  split_ifs at h with h0 h4 h5
  · obtain rfl := Except.ok.inj h
    exact .inl rfl
  · obtain ⟨xs, -, h⟩ := except_bind_eq_ok.1 h
    obtain ⟨ys, -, h⟩ := except_bind_eq_ok.1 h
    obtain rfl := Except.ok.inj h
    simp only [State.checkedPoint, Bool.and_eq_true, decide_eq_true_eq] at hok
    exact .inr ⟨rfl, hok.1.1, hok.1.2, hok.2⟩
  · obtain ⟨xs, -, h⟩ := except_bind_eq_ok.1 h
    obtain rfl := Except.ok.inj h
    exact onAffineCurve_liftX hi hl hs (fun β => min_choice β _) hok
  · obtain ⟨xs, -, h⟩ := except_bind_eq_ok.1 h
    obtain rfl := Except.ok.inj h
    exact onAffineCurve_liftX hi hl hs (fun β => ite_eq_or_eq _ β _) hok

end

/-! #### The formulas keep validity (R199) -/

section
variable {c : Cfg} {prm : Params} (hc : cfgChecks prm c = true) (hs : CfgSound c)
include hc hs

theorem validTriple_pointAdd {q1 q2 : Proj} (h1 : ValidTriple c q1) (h2 : ValidTriple c q2) :
    ValidTriple c (pointAdd c q1 q2) := by
  have := Fact.mk hs.fieldPrime
  obtain ⟨A, hA⟩ := exists_represents hc h1
  obtain ⟨B, hB⟩ := exists_represents hc h2
  exact (represents_pointAdd hc hs hA hB).valid

theorem validTriple_mixedSum {q : Proj} {a : Affine} (hq : ValidTriple c q) (ha : OnAffineCurve c a) :
    ValidTriple c (mixedSum c q a) := by
  have := Fact.mk hs.fieldPrime
  obtain ⟨A, hA⟩ := exists_represents hc hq
  obtain ⟨B, hB⟩ := exists_affineDenotes hc ha
  exact (represents_mixedSum hc hs hA ha hB).valid

theorem validTriple_pointDouble {q : Proj} (hq : ValidTriple c q) : ValidTriple c (pointDouble c q) := by
  have := Fact.mk hs.fieldPrime
  obtain ⟨A, hA⟩ := exists_represents hc hq
  exact (represents_pointDouble hc hs hA).valid

theorem validTriple_neg {q : Proj} (hq : ValidTriple c q) : ValidTriple c (q.neg c.p) := by
  have := Fact.mk hs.fieldPrime
  obtain ⟨A, hA⟩ := exists_represents hc hq
  exact hA.neg.valid

theorem validTriple_scalarMul {q : Proj} {nib k : Nat} (hk : k < 16 ^ nib) (hq : ValidTriple c q) :
    ValidTriple c (scalarMul c nib k q) := by
  have := Fact.mk hs.fieldPrime
  obtain ⟨A, hA⟩ := exists_represents hc hq
  exact (represents_scalarMul hc hs hk hA).valid

theorem validTriple_toProj {a : Affine} (ha : OnAffineCurve c a) : ValidTriple c a.toProj := by
  have := Fact.mk hs.fieldPrime
  obtain ⟨A, hA⟩ := exists_affineDenotes hc ha
  exact (represents_toProj hs.fieldPrime.one_lt ha hA).valid

end

theorem toAffine_onCurve {s : State} (hc : cfgChecks s.params s.cfg = true) (hs : CfgSound s.cfg) (rd : PReg) {q : Proj}
    (hq : ValidTriple s.cfg q) : ∃ a, OnAffineCurve s.cfg a ∧ s.toAffine rd q = s.setAffine rd a := by
  have := Fact.mk hs.fieldPrime
  obtain ⟨A, hA⟩ := exists_represents hc hq
  obtain ⟨a, ha, -, ht⟩ := toAffine_of_represents rd hA
  exact ⟨a, ha, ht⟩

/-! #### What keeps the point registers -/

section
variable {s t : State}

theorem pointsOk_of_same (h : PointsOk s) (hl : t.locked = s.locked) (hc : s.locked = true → t.cfg = s.cfg)
    (hq : ∀ j, t.proj j = s.proj j) (ha : ∀ j, t.affine j = s.affine j) : PointsOk t := by
  obtain ⟨hproj, haff⟩ := h
  cases hs : s.locked with
  | true =>
    rw [hs] at hl hproj haff
    exact ⟨fun j => by rw [hl, hc hs, hq]; exact hproj j, fun j => by rw [hl, hc hs, ha]; exact haff j⟩
  | false =>
    rw [hs] at hl hproj haff
    exact ⟨fun j => by rw [hl, hq]; exact hproj j, fun j => by rw [hl, ha]; exact haff j⟩

theorem pointsOk_resetCore (s : State) : PointsOk s.resetCore :=
  ⟨fun _ => Vector.getElem_replicate _, fun _ => Vector.getElem_replicate _⟩

theorem PointsOk.valid (h : PointsOk s) (hl : s.locked = true) (j : PReg) : ValidTriple s.cfg (s.proj j) := by
  simpa [hl] using h.proj j

theorem PointsOk.onCurve (h : PointsOk s) (hl : s.locked = true) (j : PReg) : OnAffineCurve s.cfg (s.affine j) := by
  simpa [hl] using h.affine j

theorem PointsOk.setProj (h : PointsOk s) (hl : s.locked = true) {r : PReg} {q : Proj} (hq : ValidTriple s.cfg q) :
    PointsOk (s.setProj r q) where
  proj j := by
    rw [proj_setProj, setProj_locked, if_pos hl]
    split_ifs
    · exact hq
    · exact h.valid hl j
  affine := h.affine

theorem PointsOk.setAffine (h : PointsOk s) (hl : s.locked = true) {r : PReg} {a : Affine}
    (ha : OnAffineCurve s.cfg a) : PointsOk (s.setAffine r a) where
  proj := h.proj
  affine j := by
    rw [affine_setAffine, setAffine_locked, if_pos hl]
    split_ifs
    · exact ha
    · exact h.onCurve hl j

/-- PointsOk speaks of LOCKED, the configuration and the point registers alone. -/
theorem PointsOk.unprotected (h : PointsOk s) (kBits : Vector Bool 4) (buf : Memory) (ie done err : Bool)
    (errCode : ErrCode) (errCmd : Word) (inflight : Option InFlight) (events : List Event) (resp : Option BusResponse)
    (draws : Nat) :
    PointsOk { s with kBits := kBits, buf := buf, ie := ie, done := done, err := err, errCode := errCode,
                      errCmd := errCmd, inflight := inflight, events := events, resp := resp, draws := draws } :=
  ⟨h.proj, h.affine⟩

/-! #### Commands -/

variable {i : Instr} (hk : PointsOk s)
include hk

theorem pointsOk_of_command {rule : State → Except Fault State} (h : command i s rule = .next t)
    (hr : ∀ u, checks s (shapeOf i) = none → rule s = .ok u → PointsOk u) : PointsOk t := by
  obtain ⟨c, -, rfl⟩ | ⟨hc, u, hu, rfl⟩ := command_cases h
  · rw [raiseError_frame]
    exact hk.unprotected ..
  · exact (hr u hc hu).unprotected ..

theorem pointsOk_of_register {rule : State → State} (h : command i s (fun s => .ok (rule s)) = .next t)
    (hs : shapeOf i = .register) (hr : s.locked = true → PointsOk (rule s)) : PointsOk t :=
  pointsOk_of_command hk h fun u hc hu => by
    obtain rfl := Except.ok.inj hu
    exact hr (checks_register_eq_none.1 (hs ▸ hc))

theorem pointsOk_of_proj {rd : PReg} {f : State → Proj} (h : command i s (fun s => .ok (s.setProj rd (f s))) = .next t)
    (hs : shapeOf i = .register) (hf : s.locked = true → ValidTriple s.cfg (f s)) : PointsOk t :=
  pointsOk_of_register hk h hs fun hl => hk.setProj hl (hf hl)

theorem pointsOk_of_affine {rd : PReg} {f : State → Affine}
    (h : command i s (fun s => .ok (s.setAffine rd (f s))) = .next t) (hs : shapeOf i = .register)
    (hf : s.locked = true → OnAffineCurve s.cfg (f s)) : PointsOk t :=
  pointsOk_of_register hk h hs fun hl => hk.setAffine hl (hf hl)

variable (hi : Inv s)
include hi

/-- A command that writes no point register keeps them; CFGLOCK locks over the identities. -/
theorem pointsOk_of_frame (h : exec i s = .next t) (hq : writesProj i = none) (ha : writesAffine i = none) :
    PointsOk t := by
  have hc := exec_cases h
  obtain ⟨-, hproj, haff, -⟩ := hc.frame
  have hproj' (j : PReg) : t.proj j = s.proj j := hproj j (by simp [hq])
  have haff' (j : PReg) : t.affine j = s.affine j := haff j (by simp [ha])
  obtain ⟨-, -, hs, ht⟩ | ⟨hl, hcfg⟩ := hc.lock_cases
  · obtain ⟨-, -, hidq, hida⟩ := hi.reset_values hs
    have h1 := (hc.inv hi).one_lt_p ht
    exact ⟨fun j => by rw [if_pos ht, hproj', hidq]; exact validTriple_identity h1,
      fun j => by rw [if_pos ht, haff', hida]; exact .inl rfl⟩
  · exact pointsOk_of_same hk hl hcfg hproj' haff'

/-- Every command keeps the point registers under a sound configuration: its formula keeps validity, its affine value is
on the curve or masked, or it writes no point. -/
theorem pointsOk_of_exec (hs : s.locked = true → CfgSound s.cfg) (h : exec i s = .next t) : PointsOk t := by
  have hc := hi.legalCfg
  have hframe := pointsOk_of_frame hk hi h
  unfold exec at h
  cases i with
  | padd rd ra rb =>
    exact pointsOk_of_proj hk h rfl fun hl => validTriple_pointAdd (hc hl) (hs hl) (hk.valid hl ra) (hk.valid hl rb)
  | paddm rd ra rb =>
    exact pointsOk_of_proj hk h rfl fun hl => validTriple_mixedSum (hc hl) (hs hl) (hk.valid hl ra) (hk.onCurve hl rb)
  | pdbl rd ra =>
    exact pointsOk_of_proj hk h rfl fun hl => validTriple_pointDouble (hc hl) (hs hl) (hk.valid hl ra)
  | pneg rd ra => exact pointsOk_of_proj hk h rfl fun hl => validTriple_neg (hc hl) (hs hl) (hk.valid hl ra)
  | pmul rd ra rb =>
    exact pointsOk_of_proj hk h rfl fun hl =>
      validTriple_scalarMul (hc hl) (hs hl) (hi.scalar_lt_pow_nib hl rb) (hk.valid hl ra)
  | pfroma rd ra => exact pointsOk_of_proj hk h rfl fun hl => validTriple_toProj (hc hl) (hs hl) (hk.onCurve hl ra)
  | psel rd ra rb ks => exact pointsOk_of_proj hk h rfl fun hl => by split_ifs <;> exact hk.valid hl _
  | pldi rd => exact pointsOk_of_proj hk h rfl fun hl => validTriple_identity (hi.one_lt_p hl)
  | ptoaff rd ra =>
    refine pointsOk_of_register hk h rfl fun hl => ?_
    obtain ⟨a, ha, ht⟩ := toAffine_onCurve (hc hl) (hs hl) rd (hk.valid hl ra)
    exact ht ▸ hk.setAffine hl ha
  | aldi rd => exact pointsOk_of_affine hk h rfl fun _ => .inl rfl
  | aldg rd =>
    refine pointsOk_of_affine hk h rfl fun hl => ?_
    obtain ⟨-, -, -, -, ⟨-, -, hx, hy⟩, -, -, hon, -⟩ := cfgChecks_spec (hc hl)
    exact .inr ⟨rfl, hx, hy, hon⟩
  | aneg rd ra => exact pointsOk_of_affine hk h rfl fun hl => onAffineCurve_neg (hi.p_pos hl) (hk.onCurve hl ra)
  | asel rd ra rb ks => exact pointsOk_of_affine hk h rfl fun hl => by split_ifs <;> exact hk.onCurve hl _
  | aset rd kd ra rb =>
    refine pointsOk_of_register hk h rfl fun hl => (hk.setAffine hl ?_).unprotected ..
    exact onAffineCurve_maskPoint fun hon =>
      .inr ⟨rfl, hi.elem_lt hl .field ra, hi.elem_lt hl .field rb, hon⟩
  | pdec rg kd off len =>
    refine pointsOk_of_command hk h fun u hchecks hu => ?_
    obtain ⟨hl, -⟩ := checks_pdec_eq_none.1 hchecks
    obtain ⟨⟨⟨pt, ok⟩, v⟩, hv, hu⟩ := except_bind_eq_ok.1 hu
    obtain rfl := Except.ok.inj hu
    have hon := onAffineCurve_maskPoint (onAffineCurve_readPoint hi hl (hs hl) hv)
    obtain ⟨⟨n, rfl⟩, -⟩ := readPoint_cases hv
    exact (hk.setAffine hl hon).unprotected ..
  | _ => exact hframe rfl rfl

end

/-- The completion of a word is that of a command, or the ILLEGAL error (R86, R281). -/
theorem exec_of_runWord {w : Word} {s t : State} (h : runWord w s = .next t) :
    (∃ i, exec i s = .next t) ∨ t = (s.raiseError w .illegal).retire := by
  unfold runWord at h
  split at h
  · next i _ => exact .inl ⟨i, h⟩
  · exact .inr (Host.Outcome.next.inj h).symm

/-- A host access resets the core or keeps LOCKED, the configuration and the point registers. -/
theorem pointsOk_access {s : State} (hk : PointsOk s) (a : BusAccess) : PointsOk (s.access a) := by
  obtain ⟨n, r, h⟩ | ⟨off, v, -, -, -, -, h⟩ := access_cases s a
  · rw [h]
    exact hk.unprotected ..
  · rw [h]
    have hw := writeWindow_cases s off v
    generalize s.writeWindow off v = u at hw
    cases hw with
    | reset => exact (pointsOk_resetCore s).unprotected ..
    | control | clear | busy | bytes => exact hk.unprotected ..

/-- Settles O15: a step completes a command, handles a host access, resets the core or lets time pass, and each keeps
the point registers. -/
theorem stepKeepsPoints : Obligations.StepKeepsPoints := by
  intro s t hi hs hk h
  obtain ⟨c, -, h⟩ | ⟨a, rest, -, rfl⟩ | ⟨rest, -, rfl⟩ | ⟨f, -, rfl⟩ := step_cases h
  · have hk' : PointsOk { s with events := s.events.tail } := hk.unprotected ..
    obtain ⟨i, h⟩ | rfl := exec_of_runWord h
    · exact pointsOk_of_exec hk' (hi.setEvents _) hs h
    · rw [raiseError_frame]
      exact hk.unprotected ..
  · exact pointsOk_access (s := { s with events := rest }) (hk.unprotected ..) a
  · exact pointsOk_resetCore _
  · exact hk.unprotected ..

end Sys2Proof.Machine

/-! ### Byte strings of an encoding (R10, R240) -/

namespace Sys2Proof.Machine

theorem readBytes_succ (m : Memory) (off n : Nat) :
    m.readBytes off (1 + n) = m.read off :: m.readBytes (off + 1) n := by
  simp [Memory.readBytes, Nat.add_comm 1 n, List.range_succ_eq_map, Nat.add_right_comm, Nat.add_assoc]

theorem readBytes_add (m : Memory) (off n k : Nat) :
    m.readBytes off (n + k) = m.readBytes off n ++ m.readBytes (off + n) k := by
  simp [Memory.readBytes, List.range_add, Nat.add_assoc]

/-- BE_n(BE(s)) = s for a string of length n (R10). -/
theorem beBytes_beValue (s : List Byte) : beBytes s.length (beValue s) = s := by
  induction s using List.reverseRecOn with
  | nil => rfl
  | append_singleton s b ih =>
    have hb := b.isLt
    have hdiv : (beValue s * 256 + b.toNat) / 256 = beValue s := by omega
    have hmod : BitVec.ofNat 8 (beValue s * 256 + b.toNat) = b := BitVec.eq_of_toNat_eq (by simp; omega)
    rw [beValue_append_singleton, List.length_append, List.length_singleton, beBytes, hdiv, hmod, ih]

theorem beBytes_readBytes (m : Memory) (off n : Nat) : beBytes n (beValue (m.readBytes off n)) = m.readBytes off n := by
  have h := beBytes_beValue (m.readBytes off n)
  rwa [length_readBytes] at h

/-- Writing back the bytes that stand there changes no read. -/
theorem read_writeBytes_readBytes {m : Memory} (h : m.wf) {off n : Nat} (hb : off + n ≤ Config.bufSize) (a : Nat) :
    (m.writeBytes off (m.readBytes off n)).read a = m.read a := by
  rw [memory_read_writeBytes h off _ (by rwa [length_readBytes]), length_readBytes]
  split_ifs with ha
  · have hlt : a - off < n := by omega
    simp [Memory.readBytes, hlt, Nat.add_sub_cancel' ha.1]
  · rfl

end Sys2Proof.Machine

/-! ### PENC (R240, R241) -/

namespace Sys2Proof.Machine

theorem pointBytes_of_inf {eb : Nat} {form : Form} {a : Affine} (h : a.inf = true) : pointBytes eb form a = [0x00] :=
  if_pos h

theorem length_pointBytes (eb : Nat) (form : Form) (a : Affine) :
    (pointBytes eb form a).length = if a.inf then 1 else formExtent eb form := by
  cases hinf : a.inf with
  | true => rw [pointBytes_of_inf hinf]; rfl
  | false =>
    cases form <;> simp [pointBytes, hinf, formExtent, length_beBytes] <;> omega

/-- The encoding fits into the extent that the BOUNDS check asks for (R241). -/
theorem length_pointBytes_le (eb : Nat) (form : Form) (a : Affine) :
    (pointBytes eb form a).length ≤ formExtent eb form := by
  rw [length_pointBytes]
  split_ifs
  · cases form <;> exact Nat.le_add_right 1 _
  · exact le_rfl

theorem pointBytesOk_eq_decide (p : Nat) (form : Form) (a : Affine) :
    pointBytesOk p form a = decide (form ≠ .compact ∨ a.inf = true ∨ a.y ≤ p - a.y) := by
  cases form <;> simp [pointBytesOk]

/-- The state after PENC has stored the encoding of a register (R241). -/
def State.storePoint (s : State) (rg : PReg) (kd : KReg) (off : Nat) (form : Form) : State :=
  let bytes := pointBytes s.cfg.eb form (s.affine rg)
  State.setChoice { s with buf := s.buf.writeBytes off bytes, resLen := BitVec.ofNat 8 bytes.length } kd
    (pointBytesOk s.cfg.p form (s.affine rg))

theorem exec_penc {s : State} {rg : PReg} {off : Nat} {form : Form} (hl : s.locked = true)
    (hb : off + formExtent s.cfg.eb form ≤ Config.bufSize) (kd : KReg) :
    exec (.penc rg kd off form) s = .next (s.storePoint rg kd off form).complete := by
  have hfit := length_pointBytes_le s.cfg.eb form (s.affine rg)
  have hrule : s.encodePoint rg kd off form = .ok (s.storePoint rg kd off form) := by
    rw [State.encodePoint, memWrite_ok (by omega)]
    rfl
  exact command_of_pass (rule := fun s => s.encodePoint rg kd off form) (checks_penc_eq_none.2 ⟨hl, hb⟩) hrule

/-- The tag byte of a finite point (R240). -/
def pointTag (form : Form) (a : Affine) : Byte :=
  match form with
  | .compressed => if a.y % 2 = 0 then 0x02 else 0x03
  | .uncompressed => 0x04
  | .compact => 0x05

/-- The bytes after the tag of a finite point (R240). -/
def pointFields (eb : Nat) (form : Form) (a : Affine) : List Byte :=
  match form with
  | .compressed | .compact => beBytes eb a.x
  | .uncompressed => beBytes eb a.x ++ beBytes eb a.y

theorem pointBytes_of_finite {eb : Nat} {form : Form} {a : Affine} (h : a.inf = false) :
    pointBytes eb form a = pointTag form a :: pointFields eb form a := by
  cases form with
  | compressed => rcases Nat.mod_two_eq_zero_or_one a.y with hy | hy <;> simp [pointBytes, pointTag, pointFields, h, hy]
  | uncompressed | compact => simp [pointBytes, pointTag, pointFields, h]

/-- A memory in which the encoding of a point stands at an offset (R241). -/
def HoldsPoint (m : Memory) (off eb : Nat) (form : Form) (a : Affine) : Prop :=
  m.readBytes off (if a.inf then 1 else formExtent eb form) = pointBytes eb form a

section
variable {m : Memory} {off eb : Nat} {form : Form} {a : Affine}

theorem holdsPoint_of_inf (hinf : a.inf = true) : HoldsPoint m off eb form a ↔ m.read off = 0x00 := by
  rw [HoldsPoint, if_pos hinf, pointBytes_of_inf hinf]
  simp [Memory.readBytes]

theorem holdsPoint_of_finite (hinf : a.inf = false) : HoldsPoint m off eb form a ↔
    m.read off = pointTag form a ∧ m.readBytes (off + 1) (formExtent eb form - 1) = pointFields eb form a := by
  have hext : formExtent eb form = 1 + (formExtent eb form - 1) := by cases form <;> simp [formExtent]
  rw [HoldsPoint, if_neg (by simp [hinf]), hext, readBytes_succ, pointBytes_of_finite hinf, List.cons.injEq,
    Nat.add_sub_cancel_left]

variable (h : HoldsPoint m off eb form a) (hinf : a.inf = false)
include h hinf

theorem HoldsPoint.tag : m.read off = pointTag form a := ((holdsPoint_of_finite hinf).1 h).1

theorem HoldsPoint.x (hx : a.x < 256 ^ eb) : beValue (m.readBytes (off + 1) eb) = a.x := by
  obtain ⟨-, hfields⟩ := (holdsPoint_of_finite hinf).1 h
  suffices hread : m.readBytes (off + 1) eb = beBytes eb a.x by rw [hread, beValue_beBytes _ _ hx]
  cases form with
  | compressed | compact => simpa [formExtent, pointFields] using hfields
  | uncompressed =>
    rw [formExtent, Nat.add_sub_cancel_left, two_mul, readBytes_add] at hfields
    exact (List.append_inj hfields (by rw [length_readBytes, length_beBytes])).1

end

theorem HoldsPoint.y {m : Memory} {off eb : Nat} {a : Affine} (h : HoldsPoint m off eb .uncompressed a)
    (hinf : a.inf = false) (hy : a.y < 256 ^ eb) : beValue (m.readBytes (off + 1 + eb) eb) = a.y := by
  obtain ⟨-, hfields⟩ := (holdsPoint_of_finite hinf).1 h
  rw [formExtent, Nat.add_sub_cancel_left, two_mul, readBytes_add] at hfields
  rw [(List.append_inj hfields (by rw [length_readBytes, length_beBytes])).2, beValue_beBytes _ _ hy]

theorem Inv.p_lt_pow_eb {s : State} (hi : Inv s) (hl : s.locked = true) : s.cfg.p < 256 ^ s.cfg.eb := by
  obtain ⟨-, -, hp⟩ := hi.modulus_legal hl .field
  calc s.cfg.p < 2 ^ s.cfg.l := hp
    _ ≤ 2 ^ (8 * s.cfg.eb) := Nat.pow_le_pow_right (by decide) (by rw [Cfg.eb]; omega)
    _ = 256 ^ s.cfg.eb := pow_mul 2 8 _

section
variable {s : State} {rg : PReg} {off : Nat} {form : Form}

/-- PENC leaves the encoding at OFF (R241). -/
theorem holdsPoint_storePoint (hi : Inv s) (hb : off + formExtent s.cfg.eb form ≤ Config.bufSize) (kd : KReg) :
    HoldsPoint (s.storePoint rg kd off form).buf off s.cfg.eb form (s.affine rg) := by
  have hfit := length_pointBytes_le s.cfg.eb form (s.affine rg)
  rw [HoldsPoint, ← length_pointBytes]
  exact readBytes_writeBytes hi.bufOk off _ (by omega)

theorem read_storePoint_outside (kd : KReg) {o : Nat}
    (ho : o < off ∨ off + (if (s.affine rg).inf then 1 else formExtent s.cfg.eb form) ≤ o) :
    (s.storePoint rg kd off form).buf.read o = s.buf.read o :=
  memory_read_writeBytes_outside s.buf (by rwa [length_pointBytes])

/-- The state that PENC leaves, with RESLEN and K as R241 states them. -/
theorem exec_penc_eq (hl : s.locked = true) (hb : off + formExtent s.cfg.eb form ≤ Config.bufSize) (kd : KReg) :
    exec (.penc rg kd off form) s = .next { s with
      buf := (s.storePoint rg kd off form).buf
      resLen := BitVec.ofNat 8 (if (s.affine rg).inf then 1 else formExtent s.cfg.eb form)
      kBits := s.kBits.set kd
        (decide (form ≠ .compact ∨ (s.affine rg).inf = true ∨ (s.affine rg).y ≤ s.cfg.p - (s.affine rg).y))
      done := true
      inflight := none } := by
  rw [exec_penc hl hb, ← length_pointBytes, ← pointBytesOk_eq_decide]
  rfl

end

/-- Settles O55, by reading back the encoding that was stored. -/
theorem pencResults : Obligations.PencResults := by
  intro s rg kd off form hi hl hb
  have hold := holdsPoint_storePoint (rg := rg) hi hb kd
  obtain ⟨hx, hy, -⟩ := hi.affine_ok hl rg
  have hp := hi.p_lt_pow_eb hl
  refine ⟨_, exec_penc_eq hl hb kd, fun o ho => read_storePoint_outside kd ho,
    fun hinf => (holdsPoint_of_inf hinf).1 hold, fun hinf => hold.x hinf (hx.trans hp),
    fun hinf hf => ?compressed, fun hinf hf => ?uncompressed, fun hinf hf => ?compact⟩
  case compressed =>
    subst hf
    exact hold.tag hinf
  case uncompressed =>
    subst hf
    exact ⟨hold.tag hinf, hold.y hinf (hy.trans hp)⟩
  case compact =>
    subst hf
    exact hold.tag hinf

end Sys2Proof.Machine

/-! ### PDEC by tag (R242, R243) -/

namespace Sys2Proof.Machine

/-- The tags of this core, each with the length it announces (R242). -/
theorem tagLength_cases {eb len : Nat} {t : Byte} (h : tagLength eb t = some len) :
    (t = 0x00 ∧ len = 1) ∨ (t = 0x04 ∧ len = 1 + 2 * eb) ∨ (t ∈ [0x02, 0x03, 0x05] ∧ len = 1 + eb) := by
  unfold tagLength at h
  split_ifs at h with h0 h2 h4
  · exact .inl ⟨h0, (Option.some.inj h).symm⟩
  · exact .inr (.inr ⟨by simpa using h2, (Option.some.inj h).symm⟩)
  · exact .inr (.inl ⟨h4, (Option.some.inj h).symm⟩)

theorem tagLength_ne_zero {eb len : Nat} {t : Byte} (h : tagLength eb t = some len) : len ≠ 0 := by
  obtain ⟨-, rfl⟩ | ⟨-, rfl⟩ | ⟨-, rfl⟩ := tagLength_cases h <;> omega

theorem tagLength_of_lift {eb : Nat} {t : Byte} (h : t ∈ [0x02, 0x03, 0x05]) : tagLength eb t = some (1 + eb) := by
  simp only [List.mem_cons, List.not_mem_nil, or_false] at h
  obtain rfl | rfl | rfl := h <;> rfl

/-- What PDEC takes for y by its tag: the root of the tag's parity, or the smaller root (R242, R243). -/
def pickByTag (p : Nat) (t : Byte) (β : Nat) : Nat :=
  if t = 0x05 then smallerRoot p β else rootOfParity p β (t.toNat - 0x02)

/-- The y that a tag asks for: even, odd (or the only root, 0), or the smaller of ±y (R242, R243). -/
def TagAsks (p : Nat) (t : Byte) (y : Nat) : Prop :=
  (t = 0x02 → y % 2 = 0) ∧ (t = 0x03 → y % 2 = 1 ∨ y = 0) ∧ (t = 0x05 → y ≤ p - y)

theorem pickByTag_eq_or (p : Nat) (t : Byte) (β : Nat) : pickByTag p t β = β ∨ pickByTag p t β = negMod p β := by
  unfold pickByTag
  split_ifs
  · exact min_choice β _
  · exact ite_eq_or_eq _ β _

/-- Modulo an odd number one of ±β is even and the other odd, and one is the smaller, unless both are 0. -/
theorem tagAsks_pickByTag {p β : Nat} (hp : p % 2 = 1) (hβ : β < p) (t : Byte) : TagAsks p t (pickByTag p t β) := by
  obtain rfl | hpos := Nat.eq_zero_or_pos β
  · have h0 : pickByTag p t 0 = 0 := by simpa [negMod_zero] using pickByTag_eq_or p t 0
    rw [h0]
    exact ⟨fun _ => rfl, fun _ => .inr rfl, fun _ => Nat.zero_le _⟩
  · have hodd : rootOfParity p β 0 % 2 = 0 ∧ rootOfParity p β 1 % 2 = 1 := by
      simp only [rootOfParity, negMod_of_pos hpos hβ]
      split_ifs <;> omega
    have hmin : smallerRoot p β ≤ p - smallerRoot p β := by
      rw [smallerRoot, negMod_of_pos hpos hβ]
      omega
    refine ⟨?_, ?_, ?_⟩ <;> rintro rfl
    · exact hodd.1
    · exact .inl hodd.2
    · exact hmin

/-- A tag does not ask for both of two nonzero values that are each other's negative. -/
theorem TagAsks.ne_neg {p y z : Nat} {t : Byte} (hp : p % 2 = 1) (ht : t ∈ [0x02, 0x03, 0x05]) (hy0 : 0 < y)
    (hz0 : 0 < z) (hy : TagAsks p t y) (hz : TagAsks p t z) : y + z ≠ p := by
  obtain ⟨hy2, hy3, hy5⟩ := hy
  obtain ⟨hz2, hz3, hz5⟩ := hz
  simp only [List.mem_cons, List.not_mem_nil, or_false] at ht
  obtain rfl | rfl | rfl := ht
  · have := hy2 rfl; have := hz2 rfl; omega
  · have := hy3 rfl; have := hz3 rfl; omega
  · have := hy5 rfl; have := hz5 rfl; omega

section
variable {s : State} {off : Nat}

theorem readPoint_of_identity (ht : s.buf.read off = 0x00) : s.readPoint off = .ok ((Affine.identity, true), s) := by
  simp [State.readPoint, ht, pure, Except.pure]

theorem readPoint_of_uncompressed (ht : s.buf.read off = 0x04) (hb : off + (1 + 2 * s.cfg.eb) ≤ Config.bufSize) :
    s.readPoint off = .ok (s.checkedPoint (beValue (s.buf.readBytes (off + 1) s.cfg.eb))
      (beValue (s.buf.readBytes (off + 1 + s.cfg.eb) s.cfg.eb)), s) := by
  simp only [State.readPoint, ht, memRead_ok (show off + 1 + s.cfg.eb ≤ Config.bufSize by omega),
    memRead_ok (show off + 1 + s.cfg.eb + s.cfg.eb ≤ Config.bufSize by omega)]
  rfl

theorem readPoint_of_lift (ht : s.buf.read off ∈ [0x02, 0x03, 0x05]) (hb : off + (1 + s.cfg.eb) ≤ Config.bufSize) :
    s.readPoint off =
      .ok (s.liftX (beValue (s.buf.readBytes (off + 1) s.cfg.eb)) (pickByTag s.cfg.p (s.buf.read off))) := by
  simp only [State.readPoint, memRead_ok (show off + 1 + s.cfg.eb ≤ Config.bufSize by omega)]
  simp only [List.mem_cons, List.not_mem_nil, or_false] at ht
  obtain ht | ht | ht := ht <;> rw [ht] <;> rfl

theorem checkedPoint_ok_iff {x y : Nat} : (s.checkedPoint x y).2 = true ↔
    x < s.cfg.p ∧ y < s.cfg.p ∧ y ^ 2 % s.cfg.p = (x ^ 3 + s.cfg.a * x + s.cfg.b) % s.cfg.p := by
  simp only [State.checkedPoint, onCurve_eq_decide, Bool.and_eq_true, decide_eq_true_eq, and_assoc]

/-- The state after PDEC has written a point and its validity (R242). -/
def State.loadPoint (s : State) (rg : PReg) (kd : KReg) (a : Affine) (b : Bool) : State :=
  ((s.setAffine rg a).setChoice kd b).complete

theorem loadPoint_affine (rg : PReg) (kd : KReg) (a : Affine) (b : Bool) : (s.loadPoint rg kd a b).affine rg = a :=
  (affine_setAffine s rg rg a).trans (if_pos rfl)

theorem loadPoint_choice (rg : PReg) (kd : KReg) (a : Affine) (b : Bool) : (s.loadPoint rg kd a b).choice kd = b :=
  (choice_setChoice _ kd kd b).trans (if_pos rfl)

theorem exec_pdec {len : Nat} (rg : PReg) (kd : KReg) (hl : s.locked = true) (hb : off + len ≤ Config.bufSize)
    (ht : tagLength s.cfg.eb (s.buf.read off) = some len) {pt : Affine} {ok : Bool} {v : State}
    (h : s.readPoint off = .ok ((pt, ok), v)) :
    exec (.pdec rg kd off len) s = .next (v.loadPoint rg kd (maskPoint ok pt) ok) := by
  have hrule : s.decodePoint rg kd off = .ok ((v.setAffine rg (maskPoint ok pt)).setChoice kd ok) := by
    rw [State.decodePoint, h]
    rfl
  exact command_of_pass (rule := fun s => s.decodePoint rg kd off)
    (checks_pdec_eq_none.2 ⟨hl, hb, tagLength_ne_zero ht, ht⟩) hrule

end

/-- Settles O56, by whether the pair passes PDEC's test. -/
theorem pdecUncompressedResults : Obligations.PdecUncompressedResults := by
  intro s rg kd off hl
  refine ⟨fun hb ht => exec_pdec rg kd hl hb (by rw [ht]; rfl) (readPoint_of_identity ht), fun hb ht => ?_⟩
  have hpoint {ok : Bool} (hok : (s.checkedPoint (beValue (s.buf.readBytes (off + 1) s.cfg.eb))
      (beValue (s.buf.readBytes (off + 1 + s.cfg.eb) s.cfg.eb))).2 = ok) :=
    exec_pdec rg kd hl hb (by rw [ht]; rfl) ((readPoint_of_uncompressed ht hb).trans
      (congrArg (fun b => Except.ok ((Affine.mk _ _ false, b), s)) hok))
  exact ⟨fun h => hpoint (checkedPoint_ok_iff.2 h),
    fun h => hpoint (Bool.eq_false_iff.2 fun hok => h (checkedPoint_ok_iff.1 hok))⟩

end Sys2Proof.Machine

/-! ### The compressed and compact forms under a sound configuration (R243, D10) -/

namespace Sys2Proof.Machine

/-- Two roots of one x over a prime field are equal or each other's negative. -/
theorem root_unique {c : Cfg} [Fact c.p.Prime] {x y z : Nat} (hy : y < c.p) (hz : z < c.p) (hony : onCurve c x y = true)
    (honz : onCurve c x z = true) : y = z ∨ y + z = c.p := by
  rw [onCurve_cast, equation_curveOf] at hony honz
  obtain h | h := sq_eq_sq_iff_eq_or_eq_neg.1 (hony.trans honz.symm)
  · exact .inl ((natCast_inj_of_lt hy hz).1 h)
  · obtain ⟨k, hk⟩ : c.p ∣ y + z := by
      rw [← ZMod.natCast_eq_zero_iff, Nat.cast_add, h, neg_add_cancel]
    have hk2 : k < 2 := by by_contra hge; have := Nat.mul_le_mul_left c.p (Nat.not_lt.1 hge); omega
    interval_cases k <;> omega

/-- A finite register value of a sound configuration's curve has y ≠ 0 (R199). -/
theorem y_pos_of_onCurve {prm : Params} {c : Cfg} (hc : cfgChecks prm c = true) (hs : CfgSound c) {x y : Nat}
    (hon : onCurve c x y = true) : 0 < y := by
  have := Fact.mk hs.fieldPrime
  rw [onCurve_cast, equation_curveOf] at hon
  exact Nat.pos_of_ne_zero fun h0 => y_ne_zero hc hs hon (by rw [h0, Nat.cast_zero])

theorem onCurve_mod {c : Cfg} {x r : Nat} : onCurve c x (r % c.p) = onCurve c x r := by
  rw [onCurve, onCurve, ← Nat.mul_mod]

section
variable {s : State} (hi : Inv s) (hl : s.locked = true) (hs : CfgSound s.cfg)
include hi hl hs

/-- Where x is in range and has a root, the point lifted for a tag has the root that the tag asks for (R243). -/
theorem liftX_of_root (t : Byte) {x r : Nat} (hx : x < s.cfg.p) (hr : onCurve s.cfg x r = true) :
    ∃ y, y < s.cfg.p ∧ onCurve s.cfg x y = true ∧ TagAsks s.cfg.p t y ∧
      s.liftX x (pickByTag s.cfg.p t) = ((⟨x, y, false⟩, true), s) := by
  obtain ⟨β, hβ, -⟩ := sqrtMod_of_square hs.fieldPrime (hi.modulus_odd hl .field) (beq_iff_eq.1 hr)
  have hlift : s.liftX x (pickByTag s.cfg.p t) = ((⟨x, pickByTag s.cfg.p t β, false⟩, true), s) := by
    simp only [State.liftX, State.squareRoot, exactOrDrawn_of_cfgSound hi hl hs, decide_eq_true hx, if_true, hβ,
      Option.getD_some, Option.isSome_some, Bool.and_self]
  have hpoint := onAffineCurve_liftX hi hl hs (pickByTag_eq_or s.cfg.p t) (congrArg (·.1.2) hlift)
  rw [hlift] at hpoint
  obtain ⟨-, -, hy, hon⟩ := hpoint.resolve_left (by simp [Affine.identity])
  exact ⟨_, hy, hon, tagAsks_pickByTag (hi.modulus_odd hl .field) (sqrtMod_spec (hi.p_pos hl) hβ).1 t, hlift⟩

theorem liftX_of_no_root {x : Nat} (h : ¬(x < s.cfg.p ∧ ∃ r, onCurve s.cfg x r = true)) (pick : Nat → Nat) :
    ∃ a, s.liftX x pick = ((a, false), s) := by
  have hv : (s.liftX x pick).1.2 = false := by
    refine Bool.eq_false_iff.2 fun hok => h ?_
    simp only [State.liftX, State.squareRoot, exactOrDrawn_of_cfgSound hi hl hs, Bool.and_eq_true, decide_eq_true_eq,
      Option.isSome_iff_exists] at hok
    obtain ⟨hx, β, hβ⟩ := hok
    rw [if_pos hx] at hβ
    exact ⟨hx, β, beq_iff_eq.2 (sqrtMod_spec (hi.p_pos hl) hβ).2⟩
  refine ⟨_, Prod.ext (Prod.ext rfl hv) ?_⟩
  simp only [State.liftX, State.squareRoot, exactOrDrawn_of_cfgSound hi hl hs]

end

/-- Passing the core's test is satisfying the curve equation (R170). -/
theorem onCurve_iff (c : Cfg) (x y : Nat) :
    onCurve c x y = true ↔ y ^ 2 % c.p = (x ^ 3 + c.a * x + c.b) % c.p := by
  rw [onCurve_eq_decide, decide_eq_true_eq]

/-- Settles O57, by whether x is in range and has a root. -/
theorem pdecCompressedResults : Obligations.PdecCompressedResults := by
  intro s rg kd off hi hl hs hb ht
  have htag := tagLength_of_lift (eb := s.cfg.eb) ht
  simp only [← onCurve_iff]
  refine ⟨fun hx ⟨r, _, hr⟩ => ?root, fun h => ?noRoot⟩
  case root =>
    obtain ⟨y, hy, hon, ⟨h2, h3, h5⟩, hlift⟩ := liftX_of_root hi hl hs (s.buf.read off) hx hr
    have hpoint := (readPoint_of_lift ht hb).trans (congrArg Except.ok hlift)
    exact ⟨y, ⟨hy, hon⟩, h2, h3, h5, exec_pdec rg kd hl hb htag hpoint⟩
  case noRoot =>
    have hno : ¬(beValue (s.buf.readBytes (off + 1) s.cfg.eb) < s.cfg.p ∧
        ∃ r, onCurve s.cfg (beValue (s.buf.readBytes (off + 1) s.cfg.eb)) r = true) := by
      rintro ⟨hx, r, hr⟩
      obtain hge | hnone := h
      · exact hge.not_gt hx
      · exact hnone (r % s.cfg.p) ⟨Nat.mod_lt _ (hi.p_pos hl), onCurve_mod.trans hr⟩
    obtain ⟨a, hlift⟩ := liftX_of_no_root hi hl hs hno (pickByTag s.cfg.p (s.buf.read off))
    have hpoint := (readPoint_of_lift ht hb).trans (congrArg Except.ok hlift)
    exact exec_pdec rg kd hl hb htag hpoint

end Sys2Proof.Machine

/-! ### The SEC1 round trips (R244) -/

namespace Sys2Proof.Machine

/-- EB is at most 72, so that RESLEN holds every length of an encoding (R59). -/
theorem Inv.eb_le {s : State} (hi : Inv s) (hl : s.locked = true) : s.cfg.eb ≤ 72 := by
  obtain ⟨⟨-, hmax⟩, -⟩ := cfgChecks_spec (hi.legalCfg hl)
  have hle : s.cfg.l ≤ 576 := hmax
  rw [Cfg.eb]
  omega

/-- The value that decoding gives back: the point, or its negative where the compact form does not say which (R244). -/
def decodedPoint (p : Nat) (form : Form) (a : Affine) : Affine :=
  if pointBytesOk p form a then a else ⟨a.x, p - a.y, false⟩

section
variable {s : State} {off : Nat} {form : Form} (hi : Inv s) (hl : s.locked = true) (hs : CfgSound s.cfg)
include hi hl hs

/-- The tag and x determine the point: PDEC reads the one whose y the tag asks for (R243). -/
theorem readPoint_of_tagAsks {x y : Nat} (ht : s.buf.read off ∈ [0x02, 0x03, 0x05])
    (hb : off + (1 + s.cfg.eb) ≤ Config.bufSize) (hread : beValue (s.buf.readBytes (off + 1) s.cfg.eb) = x)
    (hx : x < s.cfg.p) (hy : y < s.cfg.p) (hon : onCurve s.cfg x y = true)
    (hasks : TagAsks s.cfg.p (s.buf.read off) y) :
    s.readPoint off = .ok ((⟨x, y, false⟩, true), s) := by
  have := Fact.mk hs.fieldPrime
  have hpos {y : Nat} := y_pos_of_onCurve (hi.legalCfg hl) hs (x := x) (y := y)
  obtain ⟨z, hz, honz, hasksz, hlift⟩ := liftX_of_root hi hl hs (s.buf.read off) hx hon
  have hne := hasks.ne_neg (hi.modulus_odd hl .field) ht (hpos hon) (hpos honz) hasksz
  obtain rfl := (root_unique hy hz hon honz).resolve_right hne
  rw [readPoint_of_lift ht hb, hread, hlift]

/-- PDEC of an encoding reads the point, with its own length (R244). -/
theorem readPoint_of_holdsPoint {a : Affine} (ha : OnAffineCurve s.cfg a)
    (hb : off + formExtent s.cfg.eb form ≤ Config.bufSize) (hold : HoldsPoint s.buf off s.cfg.eb form a) :
    tagLength s.cfg.eb (s.buf.read off) = some (if a.inf then 1 else formExtent s.cfg.eb form) ∧
      s.readPoint off = .ok ((decodedPoint s.cfg.p form a, true), s) := by
  obtain rfl | ⟨hinf, hx, hy, hon⟩ := ha
  · have ht : s.buf.read off = 0x00 := (holdsPoint_of_inf rfl).1 hold
    have hok : pointBytesOk s.cfg.p form Affine.identity = true := by cases form <;> rfl
    rw [decodedPoint, if_pos hok]
    exact ⟨by rw [ht]; rfl, readPoint_of_identity ht⟩
  obtain ⟨x, y, inf⟩ := a
  obtain rfl : inf = false := hinf
  have ht := hold.tag rfl
  have hp := hi.p_lt_pow_eb hl
  have hreadx := hold.x rfl (hx.trans hp)
  cases form with
  | uncompressed =>
    refine ⟨by rw [ht]; rfl, ?_⟩
    rw [readPoint_of_uncompressed ht hb, hreadx, hold.y rfl (hy.trans hp)]
    exact congrArg (fun b => Except.ok ((Affine.mk x y false, b), s))
      (checkedPoint_ok_iff.2 ⟨hx, hy, (onCurve_iff _ _ _).1 hon⟩)
  | compressed =>
    have hmem : s.buf.read off ∈ [0x02, 0x03, 0x05] := by
      rw [ht, pointTag]
      split_ifs <;> simp
    have hasks : TagAsks s.cfg.p (s.buf.read off) y := by
      rw [ht, pointTag]
      split_ifs with he
      · exact ⟨fun _ => he, by simp, by simp⟩
      · exact ⟨by simp, fun _ => .inl (Nat.mod_two_ne_zero.1 he), by simp⟩
    exact ⟨tagLength_of_lift hmem, readPoint_of_tagAsks hi hl hs hmem hb hreadx hx hy hon hasks⟩
  | compact =>
    have hmem : s.buf.read off ∈ [0x02, 0x03, 0x05] := by simp [ht, pointTag]
    refine ⟨tagLength_of_lift hmem, ?_⟩
    have read {z : Nat} (hz : z < s.cfg.p) (honz : onCurve s.cfg x z = true) (hsmall : z ≤ s.cfg.p - z) :=
      readPoint_of_tagAsks hi hl hs hmem hb hreadx hx hz honz
        ⟨by simp [ht, pointTag], by simp [ht, pointTag], fun _ => hsmall⟩
    rw [decodedPoint, pointBytesOk_eq_decide]
    by_cases hsmall : y ≤ s.cfg.p - y
    · simpa [hsmall] using read hy hon hsmall
    · have hy0 : 0 < y := by omega
      have hneg := onCurve_negMod (hi.p_pos hl) hon
      rw [negMod_of_pos hy0 hy] at hneg
      simpa [hsmall] using read (by omega) hneg (by omega)

/-- A valid point that PDEC read by a compressed or compact tag has that x and the nonzero root that the tag asks for
(R243). -/
theorem readPoint_lift_valid {a : Affine} {v : State} (ht : s.buf.read off ∈ [0x02, 0x03, 0x05])
    (hb : off + (1 + s.cfg.eb) ≤ Config.bufSize) (h : s.readPoint off = .ok ((a, true), v)) :
    v = s ∧ ∃ y, 0 < y ∧ TagAsks s.cfg.p (s.buf.read off) y ∧
      a = ⟨beValue (s.buf.readBytes (off + 1) s.cfg.eb), y, false⟩ := by
  rw [readPoint_of_lift ht hb] at h
  have hlift := Except.ok.inj h
  by_cases hroot : beValue (s.buf.readBytes (off + 1) s.cfg.eb) < s.cfg.p ∧
      ∃ r, onCurve s.cfg (beValue (s.buf.readBytes (off + 1) s.cfg.eb)) r = true
  · obtain ⟨hx, r, hr⟩ := hroot
    obtain ⟨y, -, hon, hasks, hy⟩ := liftX_of_root hi hl hs (s.buf.read off) hx hr
    obtain ⟨⟨rfl, -⟩, rfl⟩ := by simpa using hy.symm.trans hlift
    exact ⟨rfl, y, y_pos_of_onCurve (hi.legalCfg hl) hs hon, hasks, rfl⟩
  · obtain ⟨b, hb⟩ := liftX_of_no_root hi hl hs hroot (pickByTag s.cfg.p (s.buf.read off))
    rw [hb] at hlift
    simp at hlift

/-- A valid point that PDEC read is encoded, in the form of its tag, by the bytes it was read from (R244). -/
theorem holdsPoint_of_readPoint {a : Affine} {v : State} {len : Nat} (hb : off + len ≤ Config.bufSize)
    (ht : tagLength s.cfg.eb (s.buf.read off) = some len) (hread : s.readPoint off = .ok ((a, true), v))
    (h23 : s.buf.read off ∈ [0x02, 0x03] → form = .compressed) (h4 : s.buf.read off = 0x04 → form = .uncompressed)
    (h5 : s.buf.read off = 0x05 → form = .compact) :
    v = s ∧ HoldsPoint s.buf off s.cfg.eb form a ∧ (if a.inf then 1 else formExtent s.cfg.eb form) = len ∧
      pointBytesOk s.cfg.p form a = true := by
  obtain ⟨h0, rfl⟩ | ⟨ht4, rfl⟩ | ⟨hmem, rfl⟩ := tagLength_cases ht
  · rw [readPoint_of_identity h0] at hread
    obtain ⟨⟨rfl, -⟩, rfl⟩ := by simpa using hread
    exact ⟨rfl, (holdsPoint_of_inf rfl).2 h0, rfl, by cases form <;> rfl⟩
  · obtain rfl := h4 ht4
    rw [readPoint_of_uncompressed ht4 hb] at hread
    obtain ⟨hpoint, rfl⟩ := Prod.ext_iff.1 (Except.ok.inj hread)
    obtain ⟨rfl, -⟩ := Prod.ext_iff.1 hpoint
    refine ⟨rfl, (holdsPoint_of_finite rfl).2 ⟨ht4, ?_⟩, rfl, rfl⟩
    rw [formExtent, Nat.add_sub_cancel_left, two_mul, readBytes_add]
    exact congrArg₂ (· ++ ·) (beBytes_readBytes ..).symm (beBytes_readBytes ..).symm
  · obtain ⟨rfl, y, hpos, ⟨h2, h3, h5'⟩, rfl⟩ := readPoint_lift_valid hi hl hs hmem hb hread
    have hfields : v.buf.readBytes (off + 1) (1 + v.cfg.eb - 1) =
        beBytes v.cfg.eb (beValue (v.buf.readBytes (off + 1) v.cfg.eb)) := by
      rw [Nat.add_sub_cancel_left, beBytes_readBytes]
    simp only [List.mem_cons, List.not_mem_nil, or_false] at hmem h23
    obtain htag | htag | htag := hmem
    · obtain rfl := h23 (.inl htag)
      exact ⟨rfl, (holdsPoint_of_finite rfl).2 ⟨by rw [htag, pointTag, if_pos (h2 htag)], hfields⟩, rfl, rfl⟩
    · obtain rfl := h23 (.inr htag)
      have hodd : ¬y % 2 = 0 := by have := h3 htag; omega
      exact ⟨rfl, (holdsPoint_of_finite rfl).2 ⟨by rw [htag, pointTag, if_neg hodd], hfields⟩, rfl, rfl⟩
    · obtain rfl := h5 htag
      exact ⟨rfl, (holdsPoint_of_finite rfl).2 ⟨htag, hfields⟩, rfl, by simp [pointBytesOk, h5' htag]⟩

end

/-- RESLEN holds the length of the encoding, without loss (R241). -/
theorem resLen_storePoint {s : State} (heb : s.cfg.eb ≤ 72) (rg : PReg) (kd : KReg) (off : Nat) (form : Form) :
    (s.storePoint rg kd off form).resLen.toNat = if (s.affine rg).inf then 1 else formExtent s.cfg.eb form := by
  have hext : formExtent s.cfg.eb form ≤ 145 := by cases form <;> simp only [formExtent] <;> omega
  have hlen := length_pointBytes_le s.cfg.eb form (s.affine rg)
  rw [← length_pointBytes]
  exact (BitVec.toNat_ofNat _ 8).trans (Nat.mod_eq_of_lt (by omega))

theorem choice_storePoint (s : State) (rg : PReg) (kd : KReg) (off : Nat) (form : Form) :
    (s.storePoint rg kd off form).choice kd = pointBytesOk s.cfg.p form (s.affine rg) :=
  (choice_setChoice _ kd kd _).trans (if_pos rfl)

/-- A command that raises no error where none stood passed its checks (R282). -/
theorem command_of_no_error {i : Instr} {s t : State} {rule : State → Except Fault State} (he : s.err = false)
    (h : command i s rule = .next t) (ht : t.err = false) :
    checks s (shapeOf i) = none ∧ ∃ u, rule s = .ok u ∧ t = u.complete := by
  obtain ⟨c, -, rfl⟩ | hpass := command_cases h
  · rw [raiseError_of_clear he] at ht
    cases ht
  · exact hpass

/-- PDEC without an error writes the point it reads (R242). -/
theorem pdec_of_no_error {s t : State} {rd : PReg} {kd : KReg} {off len : Nat} (he : s.err = false)
    (h : exec (.pdec rd kd off len) s = .next t) (ht : t.err = false) :
    off + len ≤ Config.bufSize ∧ tagLength s.cfg.eb (s.buf.read off) = some len ∧
      ∃ a ok v, s.readPoint off = .ok ((a, ok), v) ∧ t = v.loadPoint rd kd (maskPoint ok a) ok := by
  unfold exec at h
  obtain ⟨hchecks, u, hu, rfl⟩ := command_of_no_error (i := .pdec rd kd off len) he h ht
  obtain ⟨-, hb, -, htag⟩ := checks_pdec_eq_none.1 hchecks
  obtain ⟨⟨⟨a, ok⟩, v⟩, hread, hu⟩ := except_bind_eq_ok.1 hu
  obtain rfl := Except.ok.inj hu
  exact ⟨hb, htag, a, ok, v, hread, rfl⟩

/-- PENC then PDEC (R244): the bytes stored are read back. -/
theorem pdec_of_penc {s : State} {ra rd : PReg} {kd kd' : KReg} {off : Nat} {form : Form} (hi : Inv s)
    (hl : s.locked = true) (hs : CfgSound s.cfg) (ha : OnAffineCurve s.cfg (s.affine ra))
    (hb : off + formExtent s.cfg.eb form ≤ Config.bufSize) :
    ∃ t u, exec (.penc ra kd off form) s = .next t ∧ exec (.pdec rd kd' off t.resLen.toNat) t = .next u ∧
      u.choice kd' = true ∧ t.choice kd = pointBytesOk s.cfg.p form (s.affine ra) ∧
      u.affine rd = decodedPoint s.cfg.p form (s.affine ra) := by
  have hpenc := exec_penc (rg := ra) hl hb kd
  have hi' := (exec_cases hpenc).inv hi
  have hlen := resLen_storePoint (hi.eb_le hl) ra kd off form
  have hfit := length_pointBytes_le s.cfg.eb form (s.affine ra)
  obtain ⟨htag, hread⟩ := readPoint_of_holdsPoint hi' hl hs ha hb (holdsPoint_storePoint hi hb kd)
  rw [length_pointBytes, ← hlen] at hfit
  have hpdec := exec_pdec (s := (s.storePoint ra kd off form).complete) rd kd' hl (by omega)
    (htag.trans (congrArg some hlen.symm)) hread
  exact ⟨_, _, hpenc, hpdec, loadPoint_choice .., choice_storePoint .., loadPoint_affine ..⟩

/-- PDEC then PENC (R244): the bytes read are stored back. -/
theorem penc_of_pdec {s : State} {rd : PReg} {kd kd' : KReg} {off len : Nat} {form : Form} {a : Affine} (hi : Inv s)
    (hl : s.locked = true) (hb : off + len ≤ Config.bufSize)
    (hext : off + formExtent s.cfg.eb form ≤ Config.bufSize)
    (hold : HoldsPoint s.buf off s.cfg.eb form a) (hlen : (if a.inf then 1 else formExtent s.cfg.eb form) = len)
    (hok : pointBytesOk s.cfg.p form a = true) :
    ∃ u, exec (.penc rd kd' off form) (s.loadPoint rd kd a true) = .next u ∧ (∀ o, u.buf.read o = s.buf.read o) ∧
      u.resLen.toNat = len ∧ u.choice kd' = true := by
  have ha : (s.loadPoint rd kd a true).affine rd = a := loadPoint_affine rd kd a true
  have hbytes : pointBytes s.cfg.eb form ((s.loadPoint rd kd a true).affine rd) = s.buf.readBytes off len := by
    rw [ha, ← hlen]
    exact hold.symm
  refine ⟨_, exec_penc (s := s.loadPoint rd kd a true) hl hext kd', fun o => ?bytes, ?length, ?valid⟩
  case bytes =>
    calc ((s.loadPoint rd kd a true).storePoint rd kd' off form).buf.read o
      _ = (s.buf.writeBytes off (s.buf.readBytes off len)).read o :=
        congrArg (fun bytes => (s.buf.writeBytes off bytes).read o) hbytes
      _ = s.buf.read o := read_writeBytes_readBytes hi.bufOk hb o
  case length =>
    have hstored := resLen_storePoint (s := s.loadPoint rd kd a true) (hi.eb_le hl) rd kd' off form
    rw [ha] at hstored
    exact hstored.trans hlen
  case valid =>
    have hstored := choice_storePoint (s.loadPoint rd kd a true) rd kd' off form
    rw [ha] at hstored
    exact hstored.trans hok

/-- Settles O58: PENC stores what PDEC reads, and PDEC reads what PENC stores. -/
theorem pointRoundTrip : Obligations.PointRoundTrip := by
  refine ⟨fun s ra rd kd kd' off form hi hl hs ha hb => ?_,
    fun s t rd kd kd' off len form hi hl hs he h ht hk h23 h4 h5 hext => ?_⟩
  · obtain ⟨t, u, ht, hu, hk', hk, hpoint⟩ := pdec_of_penc (rd := rd) (kd := kd) (kd' := kd') hi hl hs ha hb
    refine ⟨t, u, ht, hu, hk', fun hf => ?_, by rw [hpoint, hk]; rfl⟩
    rw [hk, pointBytesOk_eq_decide]
    exact decide_eq_true (.inl hf)
  · obtain ⟨hb, htag, a, ok, v, hread, rfl⟩ := pdec_of_no_error he h ht
    obtain rfl : ok = true := (loadPoint_choice ..).symm.trans hk
    obtain ⟨rfl, hold, hlen, hok⟩ := holdsPoint_of_readPoint hi hl hs hb htag hread h23 h4 h5
    exact penc_of_pdec hi hl hb hext hold hlen hok

end Sys2Proof.Machine

/-! ### Configuration and choice bits (44_control.md) -/

namespace Sys2Proof.Machine

/-! ### The configuration commands (R260, R261, R262) -/

theorem legalModulus_iff {l m : Nat} : legalModulus l m = true ↔ m % 2 = 1 ∧ 2 ^ (l - 1) ≤ m ∧ m < 2 ^ l := by
  simp only [legalModulus, Bool.and_eq_true, beq_iff_eq, decide_eq_true_eq, and_assoc]

theorem legalR2_iff {radix m r2 : Nat} : legalR2 radix m r2 = true ↔ r2 = radix ^ 2 % m := by
  rw [legalR2, beq_iff_eq, pow_two]

theorem legalInverse_iff {w m inv : Nat} :
    legalInverse w m inv = true ↔ inv < 2 ^ w ∧ (m * inv + 1) % 2 ^ w = 0 := by
  simp only [legalInverse, Bool.and_eq_true, beq_iff_eq, decide_eq_true_eq]

theorem onCurve_eq_true_iff {c : Cfg} {x y : Nat} :
    onCurve c x y = true ↔ y ^ 2 % c.p = (x ^ 3 + c.a * x + c.b) % c.p := by
  rw [onCurve_eq_decide, decide_eq_true_eq]

/-- The checks of CFGLOCK as the equations and ranges of R261. -/
theorem cfgChecks_iff {prm : Params} {c : Cfg} :
    cfgChecks prm c = true ↔
      (3 ≤ c.l ∧ c.l ≤ Config.lMax) ∧ (c.flags = 0 ∨ c.flags = 1) ∧
      (c.p % 2 = 1 ∧ 2 ^ (c.l - 1) ≤ c.p ∧ c.p < 2 ^ c.l) ∧
      (c.n % 2 = 1 ∧ 2 ^ (c.l - 1) ≤ c.n ∧ c.n < 2 ^ c.l) ∧
      (c.a < c.p ∧ c.b < c.p ∧ c.gx < c.p ∧ c.gy < c.p) ∧ (c.flags = 0 ∨ c.a = c.p - 3) ∧
      (4 * c.a ^ 3 + 27 * c.b ^ 2) % c.p ≠ 0 ∧ c.gy ^ 2 % c.p = (c.gx ^ 3 + c.a * c.gx + c.b) % c.p ∧
      (c.r2p = c.radix prm ^ 2 % c.p ∧ c.r2n = c.radix prm ^ 2 % c.n) ∧
      (c.pinv < 2 ^ prm.limb.bits ∧ (c.p * c.pinv + 1) % 2 ^ prm.limb.bits = 0) ∧
      (c.ninv < 2 ^ prm.limb.bits ∧ (c.n * c.ninv + 1) % 2 ^ prm.limb.bits = 0) := by
  simp only [cfgChecks, Bool.and_eq_true, Bool.or_eq_true, decide_eq_true_eq, beq_iff_eq, bne_iff_ne,
    legalModulus_iff, legalR2_iff, legalInverse_iff, onCurve_eq_true_iff, Nat.le_one_iff_eq_zero_or_eq_one,
    pow_two, pow_three', and_assoc, ne_eq]

section
variable {s : State}

/-- A command that fails a check where no error stands has the effects of R282. -/
theorem command_of_failed {i : Instr} {rule : State → Except Fault State} {c : ErrCode} (he : s.err = false)
    (hc : checks s (shapeOf i) = some c) : command i s rule = .next (s.failed i c) := by
  rw [command_of_fail hc, raiseError_of_clear he]
  rfl

theorem checks_cfglock_of_illegal (hl : s.locked = false) (hc : ¬cfgChecks s.params s.cfg = true) :
    checks s .cfglock = some .cfgcheck := by
  rw [checks, if_neg (by simp [hl]), if_neg hc]

theorem exec_cfgw {slot : Slot} {off len : Nat} (hl : s.locked = false) (hb : off + len ≤ Config.bufSize)
    (hmin : (slotLenRange s.params slot).1 ≤ len) (hmax : len ≤ (slotLenRange s.params slot).2) :
    exec (.cfgw slot off len) s =
      .next { s with cfg := s.cfg.set slot (beValue (s.buf.readBytes off len)), done := true, inflight := none } := by
  have hrule : s.writeSlot slot off len = .ok { s with cfg := s.cfg.set slot (beValue (s.buf.readBytes off len)) } :=
    except_bind_eq_ok.2 ⟨_, memRead_ok hb, rfl⟩
  exact command_of_pass (i := .cfgw slot off len) (rule := fun s => s.writeSlot slot off len)
    (checks_cfgw_eq_none.2 ⟨hl, hb, hmin, hmax⟩) hrule

theorem exec_cfglock_of_legal (hl : s.locked = false) (hc : cfgChecks s.params s.cfg = true) :
    exec .cfglock s = .next { s with locked := true, done := true, inflight := none } :=
  command_of_pass (i := .cfglock) (rule := fun s => .ok { s with locked := true })
    (checks_cfglock_eq_none.2 ⟨hl, hc⟩) rfl

theorem exec_cfglock_of_illegal (hl : s.locked = false) (hc : ¬cfgChecks s.params s.cfg = true)
    (he : s.err = false) : exec .cfglock s = .next (s.failed .cfglock .cfgcheck) :=
  command_of_failed (i := .cfglock) (rule := fun s => .ok { s with locked := true }) he (checks_cfglock_of_illegal hl hc)

/-- A command that R283 does not check completes as its rule says, in every state. -/
theorem command_of_always {i : Instr} {t : State} {rule : State → State} (hs : shapeOf i = .always)
    (ht : (rule s).complete = t) : command i s (fun s => .ok (rule s)) = .next t :=
  ht ▸ command_of_pass (by rw [hs, checks]) rfl

end

/-- Settles O59: CFGW by what a slot reads after a write, CFGLOCK by what its checks say as equations. -/
theorem configurationResults : Obligations.ConfigurationResults := by
  refine fun s => ⟨command_of_always (i := .nop) (rule := id) rfl rfl, fun slot off len hl hb hmin hmax => ?cfgw,
    fun l m3 p n a b gx gy r2p r2n pinv ninv hl hcfg => ?cfglock⟩
  case cfgw =>
    exact ⟨_, exec_cfgw hl hb hmin hmax, (get_set ..).trans (if_pos rfl),
      fun other hne => (get_set ..).trans (if_neg hne.symm)⟩
  case cfglock =>
    have hok := cfgChecks_iff (prm := s.params) (c := s.cfg)
    rw [hcfg] at hok
    exact ⟨fun h => exec_cfglock_of_legal hl (hcfg ▸ hok.2 h),
      fun h he => exec_cfglock_of_illegal hl (fun hc => h (hok.1 (hcfg ▸ hc))) he⟩

/-! ### The choice-bit commands (R263 to R269) -/

/-- Settles O60: each rule writes one choice bit, and no check stands before it. -/
theorem choiceBitResults : Obligations.ChoiceBitResults := by
  intro s kd ka kb
  unfold exec
  exact ⟨command_of_always rfl rfl, command_of_always rfl rfl, command_of_always rfl rfl, command_of_always rfl rfl,
    command_of_always rfl rfl, command_of_always rfl rfl, command_of_always rfl rfl⟩

end Sys2Proof.Machine

/-! ### Errors (60_exceptions.md) -/

namespace Sys2Proof.Machine

/-! #### Checks that fail (R283)

For each shape of command, when its checks give which code: the counterpart of the equivalences for checks that pass. -/

theorem ite_some_eq_some {P : Prop} [Decidable P] {c d : ErrCode} {x : Option ErrCode} :
    (if P then some d else x) = some c ↔ (P ∧ c = d) ∨ (¬P ∧ x = some c) := by
  split_ifs with h <;> simp [h, eq_comm]

theorem ite_none_eq_some {P : Prop} [Decidable P] {c : ErrCode} {x : Option ErrCode} :
    (if P then none else x) = some c ↔ ¬P ∧ x = some c := by
  split_ifs with h <;> simp [h]

theorem some_eq_some_iff {c d : ErrCode} : some d = some c ↔ c = d := by rw [Option.some_inj, eq_comm]

theorem outside_eq_true {off ext : Nat} : outside off ext = true ↔ Config.bufSize < off + ext := by simp [outside]

section
variable {s : State} {c : ErrCode}

theorem checks_register_eq_some : checks s .register = some c ↔ s.locked = false ∧ c = .nocfg := by
  simp only [checks, ite_none_eq_some, some_eq_some_iff, Bool.not_eq_true]

theorem checks_element_eq_some {off len : Nat} :
    checks s (.element off len) = some c ↔
      (s.locked = false ∧ c = .nocfg) ∨
      (s.locked = true ∧ ((Config.bufSize < off + len ∧ c = .bounds) ∨
        (off + len ≤ Config.bufSize ∧ len ≠ s.cfg.eb ∧ c = .len))) := by
  simp only [checks, ite_some_eq_some, ite_none_eq_some, some_eq_some_iff, outside_eq_true,
    Bool.not_eq_true', Bool.not_eq_false, not_lt, ne_eq]

theorem checks_wide_eq_some {off len : Nat} :
    checks s (.wide off len) = some c ↔
      (s.locked = false ∧ c = .nocfg) ∨
      (s.locked = true ∧ ((Config.bufSize < off + len ∧ c = .bounds) ∨
        (off + len ≤ Config.bufSize ∧ ¬(1 ≤ len ∧ len ≤ 2 * s.cfg.eb) ∧ c = .len))) := by
  simp only [checks, ite_some_eq_some, ite_none_eq_some, some_eq_some_iff, outside_eq_true,
    Bool.not_eq_true', Bool.not_eq_false, not_lt]

theorem checks_penc_eq_some {off : Nat} {form : Form} :
    checks s (.penc off form) = some c ↔
      (s.locked = false ∧ c = .nocfg) ∨
      (s.locked = true ∧ Config.bufSize < off + formExtent s.cfg.eb form ∧ c = .bounds) := by
  simp only [checks, ite_some_eq_some, outside_eq_true, Bool.not_eq_true', Bool.not_eq_false, reduceCtorEq, and_false,
    or_false]

theorem tagChecks_eq_some {off len : Nat} :
    tagChecks s off len = some c ↔
      (tagLength s.cfg.eb (s.buf.read off) = none ∧ c = .tag) ∨
      (∃ n, tagLength s.cfg.eb (s.buf.read off) = some n ∧ len ≠ n ∧ c = .len) := by
  unfold tagChecks
  split
  · next h => simp [h, eq_comm]
  · next h => simp [h, eq_comm]

theorem checks_pdec_eq_some {off len : Nat} :
    checks s (.pdec off len) = some c ↔
      (s.locked = false ∧ c = .nocfg) ∨
      (s.locked = true ∧ ((Config.bufSize < off + len ∧ c = .bounds) ∨
        (off + len ≤ Config.bufSize ∧ ((len = 0 ∧ c = .len) ∨ (len ≠ 0 ∧
          ((tagLength s.cfg.eb (s.buf.read off) = none ∧ c = .tag) ∨
            ∃ n, tagLength s.cfg.eb (s.buf.read off) = some n ∧ len ≠ n ∧ c = .len)))))) := by
  simp only [checks, ite_some_eq_some, outside_eq_true, tagChecks_eq_some, Bool.not_eq_true', Bool.not_eq_false,
    not_lt, ne_eq]

theorem checks_cfgw_eq_some {slot : Slot} {off len : Nat} :
    checks s (.cfgw slot off len) = some c ↔
      (s.locked = true ∧ c = .locked) ∨
      (s.locked = false ∧ ((Config.bufSize < off + len ∧ c = .bounds) ∨
        (off + len ≤ Config.bufSize ∧
          ¬((slotLenRange s.params slot).1 ≤ len ∧ len ≤ (slotLenRange s.params slot).2) ∧ c = .len))) := by
  simp only [checks, ite_some_eq_some, ite_none_eq_some, some_eq_some_iff, outside_eq_true, Bool.not_eq_true, not_lt]

theorem checks_cfglock_eq_some :
    checks s .cfglock = some c ↔
      (s.locked = true ∧ c = .locked) ∨
      (s.locked = false ∧ cfgChecks s.params s.cfg = false ∧ c = .cfgcheck) := by
  simp only [checks, ite_some_eq_some, ite_none_eq_some, some_eq_some_iff, Bool.not_eq_true]

end

/-! #### A command that fails a check (R282, R288) -/

section
variable {i : Instr} {s : State} {c : ErrCode}

theorem exec_of_failed (he : s.err = false) (hc : checks s (shapeOf i) = some c) :
    exec i s = .next (s.failed i c) := by
  obtain ⟨rule, hrule⟩ := exec_is_command i
  rw [hrule, command_of_failed he hc]

theorem exec_of_failed_over_error (he : s.err = true) (hc : checks s (shapeOf i) = some c) :
    exec i s = .next { s with done := true, inflight := none } := by
  obtain ⟨rule, hrule⟩ := exec_is_command i
  rw [hrule, command_of_fail hc, raiseError_of_standing he]
  rfl

end

/-- Settles O19. -/
theorem failedCheckErrorEffects : Obligations.FailedCheckErrorEffects := fun _ _ _ he hc => exec_of_failed he hc

/-! #### The configuration's state (R283, R260, R261) -/

theorem eq_cfgw_of_shapeOf {i : Instr} {slot : Slot} {off len : Nat} (h : shapeOf i = .cfgw slot off len) :
    i = .cfgw slot off len := by
  cases i with
  | cfgw => cases h; rfl
  | _ => cases h

theorem eq_cfglock_of_shapeOf {i : Instr} (h : shapeOf i = .cfglock) : i = .cfglock := by
  cases i with
  | cfglock => rfl
  | _ => cases h

/-- Before the lock every shape but those of NOP, the KOP group, CFGW and CFGLOCK fails check 4a. -/
theorem checks_of_unlocked {s : State} {sh : Shape} (hl : s.locked = false) (halways : sh ≠ .always)
    (hcfgw : ∀ slot off len, sh ≠ .cfgw slot off len) (hlock : sh ≠ .cfglock) : checks s sh = some .nocfg := by
  cases sh with
  | always => exact absurd rfl halways
  | register => exact checks_register_eq_some.2 ⟨hl, rfl⟩
  | element => exact checks_element_eq_some.2 (.inl ⟨hl, rfl⟩)
  | wide => exact checks_wide_eq_some.2 (.inl ⟨hl, rfl⟩)
  | penc => exact checks_penc_eq_some.2 (.inl ⟨hl, rfl⟩)
  | pdec => exact checks_pdec_eq_some.2 (.inl ⟨hl, rfl⟩)
  | cfgw slot off len => exact absurd rfl (hcfgw slot off len)
  | cfglock => exact absurd rfl hlock

/-- Settles O20, by which check each shape of command fails first. -/
theorem configurationStateErrors : Obligations.ConfigurationStateErrors := by
  refine fun s he => ⟨fun hl i halways hcfgw hlock => exec_of_failed he (checks_of_unlocked hl halways
      (fun slot off len h => hcfgw slot off len (eq_cfgw_of_shapeOf h)) fun h => hlock (eq_cfglock_of_shapeOf h)),
    fun hl => exec_of_failed he (checks_cfglock_eq_some.2 (.inl ⟨hl, rfl⟩)),
    fun slot off len hl => exec_of_failed he (checks_cfgw_eq_some.2 (.inl ⟨hl, rfl⟩)),
    fun slot off len hl hb => exec_of_failed he (checks_cfgw_eq_some.2 (.inr ⟨hl, .inl ⟨hb, rfl⟩⟩)),
    fun slot off len hl hb hlen => exec_of_failed he (checks_cfgw_eq_some.2 (.inr ⟨hl, .inr ⟨hb, ?range, rfl⟩⟩)),
    fun hl hc => exec_of_failed he (checks_cfglock_eq_some.2 (.inr ⟨hl, hc, rfl⟩)), exec_cfglock_of_legal⟩
  case range => omega

/-! #### The buffer commands (R283, R241, R242) -/

theorem tagLength_of_no_tag {t : Byte} (h : t ∉ [0x00, 0x02, 0x03, 0x04, 0x05]) (eb : Nat) :
    tagLength eb t = none := by
  simp only [List.mem_cons, List.not_mem_nil, or_false, not_or] at h
  obtain ⟨h0, h2, h3, h4, h5⟩ := h
  rw [tagLength, if_neg h0, if_neg (not_or.2 ⟨h2, not_or.2 ⟨h3, h5⟩⟩), if_neg h4]

/-- The length that a tag asks for differs from LEN where R242's table says so. -/
theorem exists_tagLength_ne {eb len : Nat} {t : Byte}
    (h : (t = 0x00 ∧ len ≠ 1) ∨ (t = 0x04 ∧ len ≠ 1 + 2 * eb) ∨ (t ∈ [0x02, 0x03, 0x05] ∧ len ≠ 1 + eb)) :
    ∃ n, tagLength eb t = some n ∧ len ≠ n := by
  obtain ⟨rfl, hlen⟩ | ⟨rfl, hlen⟩ | ⟨ht, hlen⟩ := h
  · exact ⟨1, rfl, hlen⟩
  · exact ⟨1 + 2 * eb, rfl, hlen⟩
  · exact ⟨1 + eb, tagLength_of_lift ht, hlen⟩

/-- Settles O21, by which check each shape of command fails first. -/
theorem bufferCommandErrors : Obligations.BufferCommandErrors := by
  intro s he hl r a k off len
  refine ⟨fun hb => ?bounds, fun hb hlen => ?elementLen, fun hb hlen => ?wideLen, fun hb => ?pencLong,
    fun hb => ?pencShort, fun hb => ?pdecEmpty, fun hb h0 ht => ?pdecTag, fun hb h0 ht => ?pdecLen⟩
  case bounds =>
    have helement := checks_element_eq_some.2 (.inr ⟨hl, .inl ⟨hb, rfl⟩⟩)
    have hwide := checks_wide_eq_some.2 (.inr ⟨hl, .inl ⟨hb, rfl⟩⟩)
    exact ⟨exec_of_failed he helement, exec_of_failed he helement, exec_of_failed he helement,
      exec_of_failed he helement, exec_of_failed he hwide, exec_of_failed he hwide,
      exec_of_failed he (checks_pdec_eq_some.2 (.inr ⟨hl, .inl ⟨hb, rfl⟩⟩))⟩
  case elementLen =>
    have helement := checks_element_eq_some.2 (.inr ⟨hl, .inr ⟨hb, hlen, rfl⟩⟩)
    exact ⟨exec_of_failed he helement, exec_of_failed he helement, exec_of_failed he helement,
      exec_of_failed he helement⟩
  case wideLen =>
    have hwide := checks_wide_eq_some.2 (.inr ⟨hl, .inr ⟨hb, by omega, rfl⟩⟩)
    exact ⟨exec_of_failed he hwide, exec_of_failed he hwide⟩
  case pencLong => exact exec_of_failed he (checks_penc_eq_some.2 (.inr ⟨hl, hb, rfl⟩))
  case pencShort =>
    exact ⟨exec_of_failed he (checks_penc_eq_some.2 (.inr ⟨hl, hb, rfl⟩)),
      exec_of_failed he (checks_penc_eq_some.2 (.inr ⟨hl, hb, rfl⟩))⟩
  case pdecEmpty =>
    exact exec_of_failed he (checks_pdec_eq_some.2 (.inr ⟨hl, .inr ⟨hb, .inl ⟨rfl, rfl⟩⟩⟩))
  case pdecTag =>
    have htag := tagLength_of_no_tag ht s.cfg.eb
    exact exec_of_failed he (checks_pdec_eq_some.2 (.inr ⟨hl, .inr ⟨hb, .inr ⟨h0, .inl ⟨htag, rfl⟩⟩⟩⟩))
  case pdecLen =>
    obtain ⟨n, htag, hlen⟩ := exists_tagLength_ne ht
    exact exec_of_failed he (checks_pdec_eq_some.2 (.inr ⟨hl, .inr ⟨hb, .inr ⟨h0, .inr ⟨n, htag, hlen, rfl⟩⟩⟩⟩))

/-! #### What a completion does to the error fields (R285, R288) -/

theorem Writes.error_eq {i : Instr} {s u : State} (h : Writes i s u) :
    u.err = s.err ∧ u.errCode = s.errCode ∧ u.errCmd = s.errCmd := by
  induction h with
  | none => exact ⟨rfl, rfl, rfl⟩
  | elem _ _ _ _ ih => simpa using ih
  | proj _ _ _ _ ih | affine _ _ _ _ ih | choice _ _ _ ih | draw _ _ ih | bytes _ _ _ ih => exact ih

/-- A completion raises the error of the check that fails, or leaves the error fields. -/
theorem Completes.error_cases {i : Instr} {s t : State} (h : Completes i s t) :
    (∃ c, checks s (shapeOf i) = some c ∧ t = (s.raiseError (encode i) c).retire) ∨
    (t.err = s.err ∧ t.errCode = s.errCode ∧ t.errCmd = s.errCmd) := by
  cases h with
  | fails hc => exact .inl ⟨_, hc, rfl⟩
  | writes hu => exact .inr hu.error_eq
  | slot | lock => exact .inr ⟨rfl, rfl, rfl⟩

/-- A command that ends with an error where none stood failed a check, and has that check's code (R282). -/
theorem Completes.raised {i : Instr} {s t : State} (h : Completes i s t) (hs : s.err = false) (ht : t.err = true) :
    checks s (shapeOf i) = some t.errCode ∧ t.errCmd = encode i := by
  obtain ⟨c, hc, rfl⟩ | ⟨herr, -⟩ := h.error_cases
  · rw [raiseError_of_clear hs]
    exact ⟨hc, rfl⟩
  · simp [herr, hs] at ht

/-- A standing error outlives the completion of any word (R288). -/
theorem raiseError_keeps_error {s : State} (he : s.err = true) (w : Word) (c : ErrCode) :
    (s.raiseError w c).err = true ∧ (s.raiseError w c).errCode = s.errCode ∧
      (s.raiseError w c).errCmd = s.errCmd := by
  rw [raiseError_of_standing he]
  exact ⟨he, rfl, rfl⟩

theorem Completes.keeps_error {i : Instr} {s t : State} (h : Completes i s t) (he : s.err = true) :
    t.err = true ∧ t.errCode = s.errCode ∧ t.errCmd = s.errCmd := by
  obtain ⟨c, -, rfl⟩ | ⟨herr, hkeep⟩ := h.error_cases
  · exact raiseError_keeps_error he (encode i) c
  · exact ⟨herr.trans he, hkeep⟩

theorem Completes.done_eq {i : Instr} {s t : State} (h : Completes i s t) : t.done = true := by
  cases h with
  | fails => rw [raiseError_frame]; rfl
  | writes | slot | lock => rfl

/-- Settles O22: the code is that of a failed check, and each shape of command has its checks. -/
theorem errorsByCommand : Obligations.ErrorsByCommand := by
  intro i s t he h ht
  obtain ⟨hc, hcmd⟩ := (exec_cases h).raised he ht
  refine ⟨hcmd, ?_⟩
  generalize t.errCode = c at hc ⊢
  generalize shapeOf i = sh at hc ⊢
  cases sh with
  | always => cases hc
  | register => exact (checks_register_eq_some.1 hc).2
  | element => obtain ⟨-, rfl⟩ | ⟨-, ⟨-, rfl⟩ | ⟨-, -, rfl⟩⟩ := checks_element_eq_some.1 hc <;> simp
  | wide => obtain ⟨-, rfl⟩ | ⟨-, ⟨-, rfl⟩ | ⟨-, -, rfl⟩⟩ := checks_wide_eq_some.1 hc <;> simp
  | penc => obtain ⟨-, rfl⟩ | ⟨-, -, rfl⟩ := checks_penc_eq_some.1 hc <;> simp
  | pdec =>
    obtain ⟨-, rfl⟩ | ⟨-, ⟨-, rfl⟩ | ⟨-, ⟨-, rfl⟩ | ⟨-, ⟨-, rfl⟩ | ⟨_, -, -, rfl⟩⟩⟩⟩ :=
      checks_pdec_eq_some.1 hc <;> simp
  | cfgw => obtain ⟨-, rfl⟩ | ⟨-, ⟨-, rfl⟩ | ⟨-, -, rfl⟩⟩ := checks_cfgw_eq_some.1 hc <;> simp
  | cfglock => obtain ⟨-, rfl⟩ | ⟨-, -, rfl⟩ := checks_cfglock_eq_some.1 hc <;> simp

/-- A step clears ERR or leaves a standing error as it is (R288). -/
theorem step_keeps_error {s t : State} (h : step s = .next t) (hs : s.err = true) (ht : t.err = true) :
    t.errCode = s.errCode ∧ t.errCmd = s.errCmd := by
  obtain ⟨c, -, h⟩ | ⟨a, rest, -, rfl⟩ | ⟨rest, -, rfl⟩ | ⟨f, -, rfl⟩ := step_cases h
  · obtain ⟨i, -, hc⟩ | rfl := runWord_cases h
    · exact (hc.keeps_error hs).2
    · exact (raiseError_keeps_error (s := { s with events := s.events.tail }) hs c.word .illegal).2
  · obtain hclear | ⟨-, hkeep⟩ := access_keeps_error (s := { s with events := rest }) hs a
    · simp [hclear] at ht
    · exact hkeep
  · cases ht
  · exact ⟨rfl, rfl⟩

/-- Settles O23, by what a step and a completion do to the fields of a standing error. -/
theorem errorOverStandingError : Obligations.ErrorOverStandingError := by
  refine ⟨fun s t h hs ht => step_keeps_error h hs ht, fun i s c he hc => exec_of_failed_over_error he hc,
    fun i s t he h => ?_⟩
  have hc := exec_cases h
  obtain ⟨herr, hcode, hcmd⟩ := hc.keeps_error he
  exact ⟨herr, hcode, hcmd, hc.done_eq, hc.inflight_eq⟩

/-! #### Completion and acceptance (R281) -/

theorem runWord_of_instr {w : Word} {i : Instr} (h : decode w = .instr i) (s : State) : runWord w s = exec i s := by
  rw [runWord, h]

section
variable {s : State} {c : InFlight} {i : Instr} (hc : s.inflight = some c) (hd : decode c.word = .instr i)
include hc hd

theorem finish_of_instr : finish s = exec i s := (finish_of_inflight hc).trans (runWord_of_instr hd s)

theorem passTime_of_instr (hz : c.left = 0) : passTime s = exec i s :=
  (passTime_of_done hc hz).trans (runWord_of_instr hd s)

theorem step_of_wait {rest : List Event} (he : s.events = .wait :: rest) :
    step s = exec i { s with events := rest } := (step_of_cons he).trans (finish_of_instr hc hd)

end

/-- Settles O6, by the event that leads to the completion; a placed word is the case of a host that waits. -/
theorem stepRunsDecodedInstruction : Obligations.StepRunsDecodedInstruction :=
  ⟨fun _ _ _ hc hd => ⟨fun he => (step_of_nil he).trans (finish_of_instr hc hd), fun _ he => step_of_wait hc hd he,
    fun _ he hz => (step_of_cons he).trans (passTime_of_instr hc hd hz)⟩,
  fun s nbits w _ hd => step_of_wait (s := s.withFetchWord nbits w) (c := ⟨BitVec.ofNat 32 w, 0⟩) rfl hd rfl⟩

theorem access_write_cmd (s : State) (w : Word) :
    s.access (s.writeOf 0x010 w) = { s.submit w with resp := some .ack } :=
  access_writeOf s (by decide) (by decide) w

/-- Settles O24: CMD by ERR, then by BUSY. -/
theorem commandAcceptance : Obligations.CommandAcceptance := by
  intro s w
  rw [access_write_cmd, State.submit]
  refine ⟨fun he => ?ignored, fun he hb => ?dropped, fun he hb => ⟨Config.lat (latencyKey s w), ?accepted⟩⟩
  case ignored => rw [if_pos he]
  case dropped => rw [if_neg (by simp [he]), if_pos hb]; rfl
  case accepted => rw [if_neg (by simp [he]), if_neg (by simp [hb])]

/-! #### The return from an error, and the interrupt (R287, R57, R290, R291) -/

/-- Settles O28: a STATUS write by its two bits (R56), and CMD while ERR = 1. -/
theorem returnFromError : Obligations.ReturnFromError := by
  refine fun s => ⟨fun v h2 h1 => ?_, fun he w => (commandAcceptance s w).1 he⟩
  obtain ⟨-, hwrite⟩ := statusRegister s
  rw [hwrite, h1, h2]
  simp

theorem ofNat_bit (b : Bool) : BitVec.ofNat 32 (bit b) = if b then 1 else 0 := by cases b <;> rfl

theorem irq_eq_true_iff (s : State) : s.irq = true ↔ s.ie = true ∧ (s.done = true ∨ s.err = true) := by
  simp [State.irq]

theorem access_read_ctrl (s : State) :
    s.access (s.readOf 0x008) = { s with resp := some (.data (if s.ie then 1 else 0)) } :=
  ofNat_bit s.ie ▸ access_readOf_of_eq (by decide) (by decide) rfl

/-- A CTRL write without SRST stores IE (R57). -/
theorem access_write_ctrl (s : State) {v : Word} (h : v.getLsbD 1 = false) :
    s.access (s.writeOf 0x008 v) = { s with ie := v.getLsbD 0, resp := some .ack } := by
  have hctrl : s.writeCtrl v = { s with ie := v.getLsbD 0 } := by rw [State.writeCtrl, if_neg (by rw [h]; decide)]
  rw [access_writeOf s (by decide) (by decide)]
  exact congrArg (fun t : State => { t with resp := some .ack }) hctrl

/-- Settles O29: IRQ falls with IE, and with DONE and ERR. -/
theorem interruptAndCtrl : Obligations.InterruptAndCtrl := by
  intro s
  obtain ⟨-, hstatus⟩ := statusRegister s
  refine ⟨irq_eq_true_iff s, access_read_ctrl s, fun v h1 => access_write_ctrl s h1, fun v h1 h0 => ?ie,
    fun v h1 h2 => ?doneAndErr⟩
  case ie => rw [access_write_ctrl s h1, h0]; rfl
  case doneAndErr => rw [hstatus, h1, h2]; simp [State.irq]

end Sys2Proof.Machine

/-! ### Resets, hazards and timing (70_reset_and_hazards.md) -/

namespace Sys2Proof.Machine

/-! #### No command stops (R341, U17)

A rule goes to the buffer only where its checks pass, and the BOUNDS check stands among them (R50, R283). -/

section
variable {i : Instr} {s : State}

/-- A command answers a next state if its rule answers one wherever its checks pass. -/
theorem command_answers {rule : State → Except Fault State}
    (h : checks s (shapeOf i) = none → ∃ u, rule s = .ok u) : ∃ t, command i s rule = .next t := by
  cases hc : checks s (shapeOf i) with
  | some c => exact ⟨_, command_of_fail hc⟩
  | none =>
    obtain ⟨u, hu⟩ := h hc
    exact ⟨_, command_of_pass hc hu⟩

theorem command_answers_of_element {off len : Nat} {rule : State → Except Fault State}
    (hs : shapeOf i = .element off len) (h : off + s.cfg.eb ≤ Config.bufSize → ∃ u, rule s = .ok u) :
    ∃ t, command i s rule = .next t :=
  command_answers fun hc => by
    obtain ⟨-, hb, rfl⟩ := checks_element_eq_none.1 (hs ▸ hc)
    exact h hb

theorem command_answers_of_wide {off len : Nat} {rule : State → Except Fault State} (hs : shapeOf i = .wide off len)
    (h : off + len ≤ Config.bufSize → ∃ u, rule s = .ok u) : ∃ t, command i s rule = .next t :=
  command_answers fun hc => by
    obtain ⟨-, hb, -⟩ := checks_wide_eq_none.1 (hs ▸ hc)
    exact h hb

theorem decodeElem_answers {off : Nat} (hb : off + s.cfg.eb ≤ Config.bufSize) (d : Dom) (rg : EReg) (kd : KReg) :
    ∃ u, s.decodeElem d rg kd off = .ok u := ⟨_, except_bind_eq_ok.2 ⟨_, memRead_ok hb, rfl⟩⟩

theorem writeSlot_answers {off len : Nat} (hb : off + len ≤ Config.bufSize) (slot : Slot) :
    ∃ u, s.writeSlot slot off len = .ok u := ⟨_, except_bind_eq_ok.2 ⟨_, memRead_ok hb, rfl⟩⟩

theorem encodePoint_answers {off : Nat} {form : Form} (hb : off + formExtent s.cfg.eb form ≤ Config.bufSize)
    (rg : PReg) (kd : KReg) : ∃ u, s.encodePoint rg kd off form = .ok u := by
  have hfit := length_pointBytes_le s.cfg.eb form (s.affine rg)
  exact ⟨_, except_bind_eq_ok.2 ⟨_, memWrite_ok (by omega), rfl⟩⟩

/-- A tag reads no byte beyond the length that it announces (R242). -/
theorem readPoint_answers {off len : Nat} (hb : off + len ≤ Config.bufSize)
    (ht : tagLength s.cfg.eb (s.buf.read off) = some len) : ∃ r, s.readPoint off = .ok r := by
  obtain ⟨h0, -⟩ | ⟨h4, rfl⟩ | ⟨hlift, rfl⟩ := tagLength_cases ht
  · exact ⟨_, readPoint_of_identity h0⟩
  · exact ⟨_, readPoint_of_uncompressed h4 hb⟩
  · exact ⟨_, readPoint_of_lift hlift hb⟩

theorem decodePoint_answers {off len : Nat} (hb : off + len ≤ Config.bufSize)
    (ht : tagLength s.cfg.eb (s.buf.read off) = some len) (rg : PReg) (kd : KReg) :
    ∃ u, s.decodePoint rg kd off = .ok u := by
  obtain ⟨r, hr⟩ := readPoint_answers hb ht
  exact ⟨_, except_bind_eq_ok.2 ⟨r, hr, rfl⟩⟩

end

theorem exec_answers (i : Instr) (s : State) : ∃ t, exec i s = .next t := by
  unfold exec
  cases i with
  | fdec rg kd | sdec rg kd => exact command_answers_of_element rfl fun hb => decodeElem_answers hb _ rg kd
  | fenc rg | senc rg => exact command_answers_of_element rfl fun hb => ⟨_, encodeElem_eq _ rg hb⟩
  | sred rg => exact command_answers_of_wide rfl fun hb => ⟨_, reduce_eq rg hb⟩
  | srednz rg => exact command_answers_of_wide rfl fun hb => ⟨_, reduceNonzero_eq rg hb⟩
  | penc rg kd =>
    exact command_answers fun hc => by
      obtain ⟨-, hb⟩ := checks_penc_eq_none.1 hc
      exact encodePoint_answers hb rg kd
  | pdec rg kd =>
    exact command_answers fun hc => by
      obtain ⟨-, hb, -, ht⟩ := checks_pdec_eq_none.1 hc
      exact decodePoint_answers hb ht rg kd
  | cfgw slot =>
    exact command_answers fun hc => by
      obtain ⟨-, hb, -⟩ := checks_cfgw_eq_none.1 hc
      exact writeSlot_answers hb slot
  -- no other rule goes to the buffer
  | _ => exact command_answers fun _ => ⟨_, rfl⟩

theorem Completes.events_eq {i : Instr} {s t : State} (h : Completes i s t) : t.events = s.events := by
  obtain ⟨-, -, -, -, -, -, -, -, -, hevents, -⟩ := h.frame
  exact hevents

/-- The completion of a word ends the command, and takes no event. -/
theorem runWord_answers (w : Word) (s : State) :
    ∃ t, runWord w s = .next t ∧ t.inflight = none ∧ t.events = s.events := by
  cases hd : decode w with
  | instr i =>
    obtain ⟨t, ht⟩ := exec_answers i s
    have hc := exec_cases ht
    exact ⟨t, (runWord_of_instr hd s).trans ht, hc.inflight_eq, hc.events_eq⟩
  | illegal why =>
    refine ⟨s.completeIllegal w, runWord_of_illegal hd s, ?_⟩
    unfold State.completeIllegal
    split_ifs <;> exact ⟨rfl, rfl⟩

theorem finish_answers (s : State) : ∃ t, finish s = .next t := by
  cases hc : s.inflight with
  | none => exact ⟨s, finish_of_idle hc⟩
  | some c =>
    obtain ⟨t, ht, -⟩ := runWord_answers c.word s
    exact ⟨t, (finish_of_inflight hc).trans ht⟩

theorem passTime_answers (s : State) : ∃ t, passTime s = .next t := by
  cases hc : s.inflight with
  | none => exact ⟨s, passTime_of_idle hc⟩
  | some c =>
    by_cases hz : c.left = 0
    · obtain ⟨t, ht, -⟩ := runWord_answers c.word s
      exact ⟨t, (passTime_of_done hc hz).trans ht⟩
    · exact ⟨_, passTime_of_left hc hz⟩

theorem handle_answers (e : Event) (s : State) : ∃ t, handle e s = .next t := by
  cases e with
  | access a => exact ⟨s.access a, rfl⟩
  | wait => exact finish_answers s
  | tick => exact passTime_answers s
  | hardReset => exact ⟨s.resetCore, rfl⟩

theorem step_answers (s : State) : ∃ t, step s = .next t := by
  cases he : s.events with
  | nil => rw [step_of_nil he]; exact finish_answers s
  | cons e rest => rw [step_of_cons he]; exact handle_answers e _

/-- Settles O8, by the rule of each command and by the event of each step. -/
theorem stepNeverStops : Obligations.StepNeverStops := by
  refine ⟨step_answers, fun i s => ?_⟩
  obtain ⟨t, ht⟩ := exec_answers i s
  exact ⟨t, ht, (exec_cases ht).inflight_eq⟩

/-! #### Every accepted command completes (R341) -/

theorem run_succ_of_step {n : Nat} {s t : State} (h : step s = .next t) :
    Host.Core.run core (n + 1) s = Host.Core.run core n t := by
  have hcore : core.step s = .next t := h
  simp only [Host.Core.run, hcore]

/-- Settles O9, by induction on the units of time that are left. -/
theorem acceptedCommandCompletes : Obligations.AcceptedCommandCompletes := by
  rintro s ⟨w, left⟩ rest hc he
  induction left generalizing s with
  | zero =>
    obtain ⟨t, ht, hinflight, hevents⟩ := runWord_answers w { s with events := rest }
    have hpass := passTime_of_done (s := { s with events := rest }) hc rfl
    exact ⟨t, run_succ_of_step ((step_of_cons he).trans (hpass.trans ht)), hinflight, hevents⟩
  | succ n ih =>
    have hstep := (step_of_cons he).trans (passTime_of_left hc (Nat.succ_ne_zero n))
    rw [run_succ_of_step hstep]
    exact ih _ rfl rfl

/-! #### What the latency may depend on (R340) -/

/-- What two states with the same public state must further agree on for the latency of a command of this shape: PDEC's
tag byte where it is read, FLAGS for CFGW and CFGLOCK, and the bytes that CFGW stores. -/
def LatencyAgrees (s t : State) : Shape → Prop
  | .pdec off len => tagRead s off len = true → s.buf.read off = t.buf.read off
  | .cfgw slot off len =>
    s.cfg = t.cfg ∧ (checks s (.cfgw slot off len) = none → s.buf.readBytes off len = t.buf.readBytes off len)
  | .cfglock => s.cfg = t.cfg
  | .always | .register | .element _ _ | .wide _ _ | .penc _ _ => True

theorem tagRead_eq_true {s : State} {off len : Nat} :
    tagRead s off len = true ↔ s.locked = true ∧ off + len ≤ Config.bufSize ∧ len ≠ 0 := by
  simp only [tagRead, Bool.and_eq_true, Bool.not_eq_true', outside_eq_false, bne_iff_ne, and_assoc]

/-- PDEC's checks look at the tag byte only where it is read (R283). -/
theorem checks_pdec (s : State) (off len : Nat) :
    checks s (.pdec off len) =
      if tagRead s off len then tagChecks s off len
      else if !s.locked then some .nocfg else if outside off len then some .bounds else some .len := by
  cases hl : s.locked <;> cases ho : outside off len <;> simp [tagRead, checks, hl, ho]

section
variable {s t : State} (h : SamePublic s t)
include h

theorem SamePublic.eb_eq : s.cfg.eb = t.cfg.eb :=
  show Cfg.eb { s.cfg with flags := 0 } = Cfg.eb { t.cfg with flags := 0 } from congrArg Cfg.eb h.cfg

theorem SamePublic.tagRead_eq (off len : Nat) : tagRead s off len = tagRead t off len := by
  rw [tagRead, tagRead, h.locked]

theorem SamePublic.checks_eq {sh : Shape} (ha : LatencyAgrees s t sh) : checks s sh = checks t sh := by
  cases sh with
  | always => rfl
  | register | element | wide | penc => simp only [checks, h.locked, h.eb_eq]
  | pdec off len =>
    rw [checks_pdec, checks_pdec, ← h.tagRead_eq, h.locked]
    split_ifs with ht
    · rw [tagChecks, tagChecks, h.eb_eq, ha ht]
    all_goals rfl
  | cfgw => simp only [checks, h.locked, h.params]
  | cfglock => rw [checks, checks, h.locked, h.params, ha]

theorem SamePublic.publicSlots_eq {sh : Shape} (ha : LatencyAgrees s t sh) :
    publicSlots s.cfg sh = publicSlots t.cfg sh := by
  cases sh with
  | cfgw => exact congrArg Cfg.slots ha.1
  | cfglock => exact congrArg Cfg.slots ha
  | always | register | element | wide | penc | pdec => exact congrArg Cfg.slots h.cfg

theorem SamePublic.publicData_eq {sh : Shape} (ha : LatencyAgrees s t sh) : publicData s sh = publicData t sh := by
  cases sh with
  | pdec off len =>
    rw [publicData, publicData, ← h.tagRead_eq]
    split_ifs with ht
    · rw [ha ht]
    · rfl
  | cfgw slot off len =>
    rw [publicData, publicData, ← h.checks_eq ha]
    obtain ⟨-, hbytes⟩ := ha
    split_ifs with hc
    · rfl
    · rw [hbytes (by simpa using hc)]
  | always | register | element | wide | penc | cfglock => rfl

theorem SamePublic.latencyKey_eq {w : Word} (ha : ∀ i, decode w = .instr i → LatencyAgrees s t (shapeOf i)) :
    latencyKey s w = latencyKey t w := by
  unfold latencyKey
  cases hd : decode w with
  | instr i =>
    have hi := ha i hd
    simp only [h.publicSlots_eq hi, h.publicData_eq hi, h.checks_eq hi]
  | illegal => simp only [h.publicSlots_eq (sh := .always) trivial]

end

theorem access_write_cmd_inflight {s : State} (he : s.err = false) (hb : s.busy = false) (w : Word) :
    (s.access (s.writeOf 0x010 w)).inflight = some ⟨w, Config.lat (latencyKey s w)⟩ := by
  rw [access_write_cmd, State.submit, if_neg (by simp [he]), if_neg (by simp [hb])]

/-- Settles O31: what the statement lets each command look at is all that its latency key is made of. -/
theorem latencyIgnoresSecrets : Obligations.LatencyIgnoresSecrets := by
  intro s t w h hse hte hsb htb hpdec hcfgw hlock
  have hagree (i : Instr) (hd : decode w = .instr i) : LatencyAgrees s t (shapeOf i) := by
    cases i with
    | pdec rg kd off len =>
      intro ht
      obtain ⟨hl, hb, h0⟩ := tagRead_eq_true.1 ht
      exact hpdec rg kd off len hd hl hb h0
    | cfgw slot off len =>
      obtain ⟨hcfg, hbytes⟩ := hcfgw slot off len hd
      refine ⟨hcfg, fun hc => ?_⟩
      obtain ⟨hl, hb, hmin, hmax⟩ := checks_cfgw_eq_none.1 hc
      exact List.map_congr_left fun k hk => hbytes hl hb hmin hmax k (List.mem_range.1 hk)
    | cfglock => exact hlock hd
    | _ => trivial
  rw [access_write_cmd_inflight hse hsb, access_write_cmd_inflight hte htb, h.latencyKey_eq hagree]

/-! #### The resets (R320, R321) -/

/-- A CTRL write with SRST leaves the reset state, and is answered (R57, R321). -/
theorem access_write_srst (s : State) {v : Word} (h : v.getLsbD 1 = true) :
    s.access (s.writeOf 0x008 v) = { s.resetCore with resp := some .ack } := by
  have hctrl : s.writeCtrl v = s.resetCore := if_pos h
  rw [access_writeOf s (by decide) (by decide)]
  exact congrArg (fun t : State => { t with resp := some .ack }) hctrl

/-- Settles O13: each reset is the event of its step. -/
theorem resetsRestoreState : Obligations.ResetsRestoreState :=
  ⟨fun _ _ he => step_of_cons he,
    fun s rest _ hv he => (step_of_cons he).trans (congrArg _ (access_write_srst { s with events := rest } hv))⟩

end Sys2Proof.Machine
